-- ==== Sys2Proof/Word.lean ====
section
/-! DEFINITION. The widths the spec gives values: u8, u16 and u32 (00_scope.md R5), each unsigned, bit 0 least significant. -/

namespace Sys2Proof

/-- A `u8`. -/
abbrev Byte := BitVec 8

/-- A `u16`. -/
abbrev Half := BitVec 16

/-- A `u32`: a register, a bus word, a command word. -/
abbrev Word := BitVec 32

end Sys2Proof
end

