-- ==== Sys2Proof/Config.lean ====
section
/-! DEFINITION. The implementation parameters (00_scope.md R3, R4) and the fixed values (00_scope.md section 5). -/

namespace Sys2Proof

/-- The parameters a model takes as arguments (92_eei_decisions.md, "Named parameters"). They are plain
data, held in State and changed by no step, so that a statement about every state is a statement about
every configuration (log entry 1). -/
structure Config where
  /-- MAX_PAYLOAD, the largest payload FRAME_ENCODE accepts, 1 .. 65535 (00_scope.md R3). -/
  maxPayload : Nat
  /-- BASE, the bus address of offset 0, 4-byte aligned (00_scope.md R4). -/
  base : Nat
deriving DecidableEq, Repr

/-- The reference configuration of 00_scope.md R3, MAX_PAYLOAD = 4100; BASE = 0 is the model's choice.
DESIGN CHOICE (log entry 1): the spec leaves both open. -/
def Config.reference : Config := { maxPayload := 4100, base := 0 }

/-- The header sentinel 0xAA (45_frame.md R100). -/
def frameHeader : Byte := 0xAA

/-- The tail sentinel 0x55 (45_frame.md R100). -/
def frameTail : Byte := 0x55

/-- CRC init and xor-out (40_crc.md R80). -/
def crcInvert : Word := 0xFFFFFFFF

/-- FRAME_CRC_SEED (45_frame.md R102). -/
def frameCrcSeed : Word := 0

/-- The reflected polynomial (40_crc.md R80; the spec marks it general knowledge, log entry 11). -/
def crcPoly : Word := 0xEDB88320

/-- How many offsets the FCE decodes: 0x00000 .. 0x7FFFF (00_scope.md R4, 20_memory.md R40). -/
def fceSpan : Nat := 0x80000

end Sys2Proof
end

