-- ==== Sys2Proof/Machine/State.lean ====
section
/-! DEFINITION. The machine's state as plain data (10_state.md R10 to R34), the reasons a step stops, and the state after reset. -/

namespace Sys2Proof.Machine

/-- STATUS.CODE's six values (10_state.md R16). Values 6 to 15 are reserved and no command produces
them, so the type omits them (93_implementation_defined.md). -/
inductive Code where
  | ok
  | encodeError
  | framingError
  | integrityError
  | paramError
  | illegalCmd
deriving DecidableEq, Repr

/-- The fifteen addressable registers (10_state.md R11). -/
inductive Reg where
  | cmd
  | status
  | crcSeed
  | crcValue
  | crcWord
  | crcSpan
  | frmHdr
  | txLen
  | txCrc
  | rxLen
  | rxHdr
  | rxCrc
  | rxCalc
  | rxAck
  | cap
deriving DecidableEq, Repr

/-- The three byte buffers (10_state.md R30). -/
inductive Buf where
  | pbuf
  | txbuf
  | rxbuf
deriving DecidableEq, Repr

/-- What a valid bus access reaches (20_memory.md R41): a register, or a buffer window at byte index k. -/
inductive Target where
  | reg (r : Reg)
  | buf (b : Buf) (k : Nat)
deriving DecidableEq, Repr

/-- `InitBuf`: the contents a reset draws for the buffers, any bytes (10_state.md R32, 70_reset_and_hazards.md
R150). A list's byte i is the buffer's byte i; bytes beyond a list are 0, bytes beyond the capacity are
dropped, so every contents of the buffers is drawn by some value of this type. -/
structure InitBuf where
  pbuf  : List Byte
  txbuf : List Byte
  rxbuf : List Byte
deriving DecidableEq, Repr

/-- One bus access of the HOST (20_memory.md R42; the lines `WR`, `RD` and `POLL` of 30_encoding.md R66, R67).
`addr` is a bus address: BASE + offset (00_scope.md R4). -/
inductive HostOp where
  /-- `MemRead` of `size` bytes. -/
  | read (size addr : Nat)
  /-- `MemWrite` of `size` bytes; `v` is the word moved when the size is 4 (any other size is a bus error). -/
  | write (size addr : Nat) (v : Word)
  /-- `POLL`: read STATUS, again while bit 8 of it is 1. -/
  | poll
deriving DecidableEq, Repr

/-- Whose event comes next in the interleaving (20_memory.md R50). -/
inductive Turn where
  /-- The HOST's next bus access. -/
  | host
  /-- The ENGINE's step, if it is enabled (10_state.md R26). -/
  | engine
  /-- A reset event with the buffer contents it draws (70_reset_and_hazards.md R150). -/
  | reset (init : InitBuf)
deriving DecidableEq, Repr

/-- The buffers' bytes, as (FCE offset, byte) pairs: offsets strictly rising, no pair that holds the byte
an unlisted offset reads as (`Memory.wf`, Machine/Ops.lean). -/
abbrev Memory := List Host.Cell

/-- Why the machine stops with a fault: the bus errors (20_memory.md R42 to R44), which "a model treats as
a fault of the HOST agent" (R44, 60_exceptions.md R133). Safe: the hardware answers an error and goes on. -/
inductive Fault where
  /-- The HOST's access is not of 4 bytes (R42). Raised by a HOST step; safe. -/
  | busErrorSize
  /-- The HOST's access is at an offset that is not a multiple of 4 (R42). Raised by a HOST step; safe. -/
  | busErrorMisaligned
  /-- The HOST's access is at an offset in 0x0003C .. 0x1FFFF (R43). Raised by a HOST step; safe. -/
  | busErrorUnmapped
  /-- The HOST's access is in a buffer window at or beyond the capacity (R43). Raised by a HOST step; safe. -/
  | busErrorCapacity
deriving DecidableEq, Repr

/-- Why the machine has no meaning for a step. -/
inductive Refusal where
  /-- An instruction without a meaning, by its mnemonic. No arm of `exec` answers it; safe. -/
  | notModelled (mnemonic : String)
  /-- The HOST's access is outside the 0x80000 offsets the FCE decodes: "What the platform places there is
  not part of this spec" (20_memory.md R41). Raised by a HOST step; safe (log entry 8). -/
  | outsideFce
deriving DecidableEq, Repr

/-- The state. CMD, CRC_VALUE and CAP hold nothing of their own (10_state.md R14, R19, R24); CRC_TABLE is
a constant (R33, Machine/CrcTable.lean). -/
structure State where
  /-- The parameters MAX_PAYLOAD and BASE (00_scope.md R3, R4); no step changes them. -/
  cfg : Config
  /-- CMD_LATCH, the command word in progress (10_state.md R13). -/
  cmdLatch : Word
  /-- STATUS.CODE (10_state.md R15, R16). -/
  code : Code
  /-- STATUS.BUSY (10_state.md R15). -/
  busy : Bool
  /-- STATUS.WERR (10_state.md R15). -/
  werr : Bool
  /-- R, the running CRC in its pre-inverted form (10_state.md R12). -/
  r : Word
  /-- CRC_SEED (10_state.md R18). -/
  crcSeed : Word
  /-- CRC_WORD (10_state.md R20). -/
  crcWord : Word
  /-- CRC_SPAN (10_state.md R21). -/
  crcSpan : Word
  /-- FRM_HDR (10_state.md R22). -/
  frmHdr : Word
  /-- TX_LEN, bits 16:0 (10_state.md R23). -/
  txLen : BitVec 17
  /-- TX_CRC (10_state.md R23). -/
  txCrc : Word
  /-- RX_LEN, bits 16:0 (10_state.md R25). -/
  rxLen : BitVec 17
  /-- RX_HDR (10_state.md R27). -/
  rxHdr : Word
  /-- RX_CRC (10_state.md R28). -/
  rxCrc : Word
  /-- RX_CALC (10_state.md R28). -/
  rxCalc : Word
  /-- RX_ACK (10_state.md R29). -/
  rxAck : Word
  /-- PBUF, TXBUF and RXBUF (10_state.md R30). -/
  mem : Memory
  /-- The model's own: the HOST's bus accesses still to come, in program order (log entry 5). -/
  prog : List HostOp
  /-- The model's own: the turns still to come (log entry 4). -/
  sched : List Turn
  /-- The model's own: the words the HOST's reads returned, newest first (log entry 5). -/
  replies : List Word
deriving DecidableEq, Repr

/-- The machine right after reset (10_state.md R32, 70_reset_and_hazards.md R150), in the reference
configuration (log entry 1), with the draw of `InitBuf` that is all zeros (log entry 2) and with nothing
of the HOST's or the schedule's still to come (log entries 4, 5). -/
def State.reset : State where
  cfg := Config.reference
  cmdLatch := 0
  code := .ok
  busy := false
  werr := false
  r := 0xFFFFFFFF
  crcSeed := 0
  crcWord := 0
  crcSpan := 0
  frmHdr := 0
  txLen := 0
  txCrc := 0
  rxLen := 0
  rxHdr := 0
  rxCrc := 0
  rxCalc := 0
  rxAck := 0
  mem := []
  prog := []
  sched := []
  replies := []

end Sys2Proof.Machine
end

