-- ==== Sys2Proof/Syntax.lean ====
section
/-! DEFINITION. The instructions: one constructor for each row of spec/opcode_table.json (30_encoding.md R62). -/

namespace Sys2Proof

/-- The six commands. Every operand but IMM8 comes from a register or a buffer (30_encoding.md R61). -/
inductive Instr where
  /-- CRC_LOAD (40_crc.md R85). -/
  | crcLoad
  /-- CRC_FEED_BYTE b, b = IMM8 (40_crc.md R86). -/
  | crcFeedByte (b : Byte)
  /-- CRC_FEED_WORD_LE (40_crc.md R87). -/
  | crcFeedWordLe
  /-- CRC_FEED_BUF (40_crc.md R88). -/
  | crcFeedBuf
  /-- FRAME_ENCODE (45_frame.md R105). -/
  | frameEncode
  /-- FRAME_DECODE (45_frame.md R110). -/
  | frameDecode
deriving DecidableEq, Repr

end Sys2Proof
end

