-- ==== Sys2Proof/WellFormed.lean ====
section
/-! DEFINITION. Well-formedness: of an instruction (nothing to check, the one operand is a byte by its type) and of a configuration. -/

namespace Sys2Proof

/-- Every term of `Instr` is a command: IMM8 is a `u8` (30_encoding.md R60, R61), and no command has
another operand in its word. -/
def Instr.wellFormed : Instr → Bool
  | .crcLoad => true
  | .crcFeedByte _ => true
  | .crcFeedWordLe => true
  | .crcFeedBuf => true
  | .frameEncode => true
  | .frameDecode => true

/-- 1 <= MAX_PAYLOAD <= 65535 (00_scope.md R3) and BASE 4-byte aligned (00_scope.md R4). -/
abbrev Config.WellFormed (c : Config) : Prop :=
  1 ≤ c.maxPayload ∧ c.maxPayload ≤ 65535 ∧ c.base % 4 = 0

end Sys2Proof
end

