-- ==== Sys2Proof/Machine/Ops.lean ====
section
/-! DEFINITION. The named operations over memory and registers: reading and writing buffer bytes, `finish`, and the reset event. -/

namespace Sys2Proof.Machine

/-- What an offset that memory does not list reads as. This is how a buffer byte 0x00 is held; every
contents of the buffers is some list (log entry 2). -/
def Memory.unlisted : Byte := 0

/-- One byte. -/
def Memory.read : Memory → Nat → Byte
  | [], _ => Memory.unlisted
  | (k, b) :: rest, a => if k = a then b else Memory.read rest a

/-- The pairs that hold `bs` from offset `a` on, without those that read as unlisted. -/
def Memory.cells (a : Nat) : List Byte → Memory
  | [] => []
  | b :: bs => if b = Memory.unlisted then Memory.cells (a + 1) bs else (a, b) :: Memory.cells (a + 1) bs

/-- The bytes `bs` stored at `a`, `a + 1`, ...: whatever was listed there gives way to them. -/
def Memory.writeBytes (m : Memory) (a : Nat) (bs : List Byte) : Memory :=
  m.filter (fun c => c.1 < a) ++ Memory.cells a bs ++ m.filter (fun c => a + bs.length ≤ c.1)

/-- The canonical form: offsets strictly rising, nothing listed that reads as unlisted. -/
abbrev Memory.wf (m : Memory) : Prop :=
  m.Pairwise (fun x y => x.1 < y.1) ∧ ∀ c ∈ m, c.2 ≠ Memory.unlisted

/-- The offset of a buffer's byte 0 (20_memory.md R41). -/
def Buf.base : Buf → Nat
  | .pbuf => 0x20000
  | .txbuf => 0x40000
  | .rxbuf => 0x60000

/-- A buffer's capacity in bytes (00_scope.md R3, 10_state.md R30). -/
def Buf.capacity (c : Config) : Buf → Nat
  | .pbuf => c.maxPayload
  | .txbuf => c.maxPayload + 10
  | .rxbuf => c.maxPayload + 10

/-- The bytes a draw gives a buffer. -/
def InitBuf.bytes (d : InitBuf) : Buf → List Byte
  | .pbuf => d.pbuf
  | .txbuf => d.txbuf
  | .rxbuf => d.rxbuf

/-- `B[i]`: the ENGINE reaches a buffer by byte index (20_memory.md R55). -/
def State.bufByte (s : State) (b : Buf) (i : Nat) : Byte := Memory.read s.mem (b.base + i)

/-- `B[i .. i+n-1]`. -/
def State.bufBytes (s : State) (b : Buf) (i n : Nat) : List Byte :=
  (List.range n).map (fun j => s.bufByte b (i + j))

/-- `B[i] <- bs[0]; B[i+1] <- bs[1]; ...`. -/
def State.storeBytes (b : Buf) (i : Nat) (bs : List Byte) (s : State) : State :=
  { s with mem := Memory.writeBytes s.mem (b.base + i) bs }

/-- `finish(code)` (00_scope.md R6, 10_state.md R26): the one way a command ends. The FCE takes no
exception (60_exceptions.md R130, R136); this is what it has in place of one. -/
def State.finish (c : Code) (s : State) : State := { s with code := c, busy := false }

/-- `R <- v` (10_state.md R12). -/
def State.setR (v : Word) (s : State) : State := { s with r := v }

/-- What FRAME_ENCODE writes on OK: the frame into TXBUF from byte 0, TX_LEN and TX_CRC
(45_frame.md R105). -/
def State.putFrame (f : List Byte) (crc : Word) (s : State) : State :=
  { s.storeBytes .txbuf 0 f with txLen := BitVec.ofNat 17 f.length, txCrc := crc }

/-- RX_CRC and RX_CALC, which FRAME_DECODE writes once the sentinels are right (45_frame.md R112). -/
def State.setRxCrcs (recv own : Word) (s : State) : State := { s with rxCrc := recv, rxCalc := own }

/-- RX_HDR and RX_ACK, which FRAME_DECODE writes on OK (45_frame.md R113, R114). -/
def State.setRxFrame (hdr ack : Word) (s : State) : State := { s with rxHdr := hdr, rxAck := ack }

/-- The buffers after a reset that draws `d`, each cut to its capacity (70_reset_and_hazards.md R150). -/
def Memory.ofInit (c : Config) (d : InitBuf) : Memory :=
  let m := Memory.writeBytes [] Buf.pbuf.base (d.pbuf.take (Buf.pbuf.capacity c))
  let m := Memory.writeBytes m Buf.txbuf.base (d.txbuf.take (Buf.txbuf.capacity c))
  Memory.writeBytes m Buf.rxbuf.base (d.rxbuf.take (Buf.rxbuf.capacity c))

/-- The reset event (70_reset_and_hazards.md R150, 10_state.md R32), with the buffer contents it draws.
A command in progress is abandoned with none of its writes (R151). The parameters, the HOST's program and
the schedule are no state of the FCE and stay (log entry 3). -/
def State.afterReset (d : InitBuf) (s : State) : State :=
  { s with
    cmdLatch := 0, code := .ok, busy := false, werr := false, r := 0xFFFFFFFF,
    crcSeed := 0, crcWord := 0, crcSpan := 0, frmHdr := 0, txLen := 0, txCrc := 0,
    rxLen := 0, rxHdr := 0, rxCrc := 0, rxCalc := 0, rxAck := 0,
    mem := Memory.ofInit s.cfg d }

/-- The power-up of a machine of configuration `c` that draws `d`, with the HOST's program and the
interleaving to come. `State.reset` is one of these. -/
def State.powerUp (c : Config) (d : InitBuf) (prog : List HostOp) (sched : List Turn) : State :=
  { State.afterReset d { State.reset with cfg := c } with prog := prog, sched := sched }

end Sys2Proof.Machine
end

