-- ==== Sys2Proof/Machine/Flags.lean ====
section
/-! DEFINITION. STATUS: its word and its write rule (10_state.md R15 to R17). The FCE has no other flags (10_state.md R34). -/

namespace Sys2Proof.Machine

/-- STATUS.CODE's bits 3:0 (10_state.md R16). -/
def Code.bits : Code → BitVec 4
  | .ok => 0
  | .encodeError => 1
  | .framingError => 2
  | .integrityError => 3
  | .paramError => 4
  | .illegalCmd => 5

/-- STATUS as it reads: CODE 3:0, BUSY 8, WERR 9, every other bit 0 (10_state.md R15). -/
def State.statusWord (s : State) : Word :=
  (s.code.bits.setWidth 32) ||| (if s.busy then 0x100 else 0) ||| (if s.werr then 0x200 else 0)

/-- A bus write to STATUS accepted while BUSY = 0: a 1 in bit 9 clears WERR, every other bit is ignored
(10_state.md R17). -/
def State.writeStatus (v : Word) (s : State) : State :=
  if v.getLsbD 9 then { s with werr := false } else s

/-- A valid bus write while BUSY = 1 changes nothing except WERR (20_memory.md R47). -/
def State.flagWriteError (s : State) : State := { s with werr := true }

end Sys2Proof.Machine
end

