-- ==== Sys2Proof/Machine/Bytes.lean ====
section
/-! DEFINITION. Byte order and register fields, decided once (00_scope.md section 6, 20_memory.md R48). -/

namespace Sys2Proof.Machine

/-- `bytesBE16(v)` (00_scope.md section 6). -/
def bytesBE16 (v : Half) : List Byte := [v.extractLsb' 8 8, v.extractLsb' 0 8]

/-- `bytesBE32(v)` (00_scope.md section 6). -/
def bytesBE32 (v : Word) : List Byte :=
  [v.extractLsb' 24 8, v.extractLsb' 16 8, v.extractLsb' 8 8, v.extractLsb' 0 8]

/-- `bytesLE32(v)` (00_scope.md section 6). -/
def bytesLE32 (v : Word) : List Byte :=
  [v.extractLsb' 0 8, v.extractLsb' 8 8, v.extractLsb' 16 8, v.extractLsb' 24 8]

/-- `BE16(s, i)` of the bytes b0 = s[i], b1 = s[i+1] (00_scope.md section 6). -/
def be16 (b0 b1 : Byte) : Half := (b0.setWidth 16 <<< 8) ||| b1.setWidth 16

/-- `BE32(s, i)` of the bytes b0 = s[i] .. b3 = s[i+3] (00_scope.md section 6). -/
def be32 (b0 b1 b2 b3 : Byte) : Word :=
  (b0.setWidth 32 <<< 24) ||| (b1.setWidth 32 <<< 16) ||| (b2.setWidth 32 <<< 8) ||| b3.setWidth 32

/-- A bus word over four buffer bytes: buffer byte k + i is bits 8i+7 : 8i (20_memory.md R45, R48). -/
def le32 (b0 b1 b2 b3 : Byte) : Word :=
  b0.setWidth 32 ||| (b1.setWidth 32 <<< 8) ||| (b2.setWidth 32 <<< 16) ||| (b3.setWidth 32 <<< 24)

/-- A register of the layout of FRM_HDR, RX_HDR and RX_ACK: a byte at 7:0, a byte at 15:8, a half at 31:16
(10_state.md R22, R27, R29). -/
def packFields (lo mid : Byte) (hi : Half) : Word :=
  lo.setWidth 32 ||| (mid.setWidth 32 <<< 8) ||| (hi.setWidth 32 <<< 16)

end Sys2Proof.Machine
end

