-- ==== Sys2Proof/Machine/Operands.lean ====
section
/-! DEFINITION. The operands of the commands (30_encoding.md R61); none is sign-extended, scaled or shifted. -/

namespace Sys2Proof.Machine

/-- CRC_SPAN.OFF, bits 15:0 (10_state.md R21). -/
def State.spanOff (s : State) : Half := s.crcSpan.extractLsb' 0 16

/-- CRC_SPAN.LEN, bits 31:16 (10_state.md R21). -/
def State.spanLen (s : State) : Half := s.crcSpan.extractLsb' 16 16

/-- FRM_HDR.CLASS, bits 7:0 (10_state.md R22). -/
def State.hdrClass (s : State) : Byte := s.frmHdr.extractLsb' 0 8

/-- FRM_HDR.MSG, bits 15:8 (10_state.md R22). -/
def State.hdrMsg (s : State) : Byte := s.frmHdr.extractLsb' 8 8

/-- FRM_HDR.LEN, bits 31:16 (10_state.md R22). -/
def State.hdrLen (s : State) : Half := s.frmHdr.extractLsb' 16 16

/-- FRAME_ENCODE's payload, PBUF[0 .. L-1] (45_frame.md R105). -/
def State.payload (s : State) : List Byte := s.bufBytes .pbuf 0 s.hdrLen.toNat

/-- CRC_FEED_BUF's data, PBUF[OFF .. OFF+LEN-1] (40_crc.md R88). -/
def State.span (s : State) : List Byte := s.bufBytes .pbuf s.spanOff.toNat s.spanLen.toNat

/-- N, the fixed response size RX_LEN (45_frame.md R110). -/
def State.rxSize (s : State) : Nat := s.rxLen.toNat

/-- BE16(RXBUF, i) (00_scope.md section 6). -/
def State.rxBE16 (s : State) (i : Nat) : Half := be16 (s.bufByte .rxbuf i) (s.bufByte .rxbuf (i + 1))

/-- BE32(RXBUF, i) (00_scope.md section 6). -/
def State.rxBE32 (s : State) (i : Nat) : Word :=
  be32 (s.bufByte .rxbuf i) (s.bufByte .rxbuf (i + 1)) (s.bufByte .rxbuf (i + 2)) (s.bufByte .rxbuf (i + 3))

end Sys2Proof.Machine
end

