-- ==== Sys2Proof/Machine/Bus.lean ====
section
/-! DEFINITION. The bus slave interface (20_memory.md R40 to R55) and the HOST's step. -/

namespace Sys2Proof.Machine

/-- The fifteen registers in the order of their offsets (10_state.md R11). -/
def Reg.all : List Reg :=
  [.cmd, .status, .crcSeed, .crcValue, .crcWord, .crcSpan, .frmHdr, .txLen, .txCrc, .rxLen, .rxHdr,
   .rxCrc, .rxCalc, .rxAck, .cap]

/-- A register's byte offset from BASE (10_state.md R11). -/
def Reg.offset : Reg → Nat
  | .cmd => 0x00
  | .status => 0x04
  | .crcSeed => 0x08
  | .crcValue => 0x0C
  | .crcWord => 0x10
  | .crcSpan => 0x14
  | .frmHdr => 0x18
  | .txLen => 0x1C
  | .txCrc => 0x20
  | .rxLen => 0x24
  | .rxHdr => 0x28
  | .rxCrc => 0x2C
  | .rxCalc => 0x30
  | .rxAck => 0x34
  | .cap => 0x38

/-- The register at an offset, if there is one (20_memory.md R41). -/
def Reg.ofOffset (off : Nat) : Option Reg := Reg.all.find? (fun r => r.offset == off)

/-- The buffer whose window holds an offset of 0x20000 .. 0x7FFFF (20_memory.md R41). -/
def Buf.ofOffset (off : Nat) : Buf :=
  if off < Buf.txbuf.base then .pbuf else if off < Buf.rxbuf.base then .txbuf else .rxbuf

/-- The offset a valid access to a target is made at: `offset(target)` of 30_encoding.md R66. -/
def Target.offset : Target → Nat
  | .reg r => r.offset
  | .buf b k => b.base + k

/-- What an access of `size` bytes at offset `off` < 0x80000 reaches, or the bus error it is
(20_memory.md R42, R43). -/
def busTarget (c : Config) (size off : Nat) : Except Fault Target :=
  if size ≠ 4 then .error .busErrorSize
  else if off % 4 ≠ 0 then .error .busErrorMisaligned
  else if off < Buf.pbuf.base then
    match Reg.ofOffset off with
    | some r => .ok (.reg r)
    | none => .error .busErrorUnmapped
  else if off - (Buf.ofOffset off).base < (Buf.ofOffset off).capacity c then
    .ok (.buf (Buf.ofOffset off) (off - (Buf.ofOffset off).base))
  else .error .busErrorCapacity

/-- A register as the bus reads it (10_state.md R11, R14 to R29): write-only CMD reads 0, CRC_VALUE reads
`R XOR 0xFFFFFFFF`, the reserved bits read 0. -/
def State.readReg (s : State) : Reg → Word
  | .cmd => 0
  | .status => s.statusWord
  | .crcSeed => s.crcSeed
  | .crcValue => s.r ^^^ crcInvert
  | .crcWord => s.crcWord
  | .crcSpan => s.crcSpan
  | .frmHdr => s.frmHdr
  | .txLen => s.txLen.setWidth 32
  | .txCrc => s.txCrc
  | .rxLen => s.rxLen.setWidth 32
  | .rxHdr => s.rxHdr
  | .rxCrc => s.rxCrc
  | .rxCalc => s.rxCalc
  | .rxAck => s.rxAck
  | .cap => (BitVec.ofNat 16 s.cfg.maxPayload).setWidth 32

/-- A register's write rule while BUSY = 0 (20_memory.md R46): CMD latches the word and sets BUSY
(10_state.md R14), STATUS clears WERR (R17), RX_LEN keeps bits 16:0 (R25), read-only registers ignore it. -/
def State.writeReg (s : State) (r : Reg) (v : Word) : State :=
  match r with
  | .cmd => { s with cmdLatch := v, busy := true }
  | .status => s.writeStatus v
  | .crcSeed => { s with crcSeed := v }
  | .crcWord => { s with crcWord := v }
  | .crcSpan => { s with crcSpan := v }
  | .frmHdr => { s with frmHdr := v }
  | .rxLen => { s with rxLen := v.setWidth 17 }
  | .crcValue => s
  | .txLen => s
  | .txCrc => s
  | .rxHdr => s
  | .rxCrc => s
  | .rxCalc => s
  | .rxAck => s
  | .cap => s

/-- `byteOr(B, i)`: 0 at and beyond the capacity (20_memory.md R45). -/
def State.byteOr (s : State) (b : Buf) (i : Nat) : Byte :=
  if i < b.capacity s.cfg then s.bufByte b i else 0

/-- `MemRead` of a valid access (20_memory.md R45). -/
def State.readTarget (s : State) : Target → Word
  | .reg r => s.readReg r
  | .buf b k => le32 (s.byteOr b k) (s.byteOr b (k + 1)) (s.byteOr b (k + 2)) (s.byteOr b (k + 3))

/-- A word into a buffer window: the bytes at or beyond the capacity are dropped (20_memory.md R46). -/
def State.writeWindow (s : State) (b : Buf) (k : Nat) (v : Word) : State :=
  s.storeBytes b k ((bytesLE32 v).take (b.capacity s.cfg - k))

/-- `MemWrite` of a valid access while BUSY = 0 (20_memory.md R46): a write to TXBUF is ignored. -/
def State.writeIdle (s : State) (t : Target) (v : Word) : State :=
  match t with
  | .reg r => s.writeReg r v
  | .buf .pbuf k => s.writeWindow .pbuf k v
  | .buf .txbuf _ => s
  | .buf .rxbuf k => s.writeWindow .rxbuf k v

/-- `MemWrite` of a valid access (20_memory.md R46, R47). -/
def State.writeTarget (s : State) (t : Target) (v : Word) : State :=
  if s.busy then s.flagWriteError else s.writeIdle t v

/-- What the FCE answers a bus access: an error response, and the data of a read (20_memory.md R44, R45). -/
structure BusReply where
  error : Bool
  data  : Word
deriving DecidableEq, Repr

/-- The FCE's answer to a read; a bus error returns 0x00000000 (20_memory.md R44). -/
def State.busRead (s : State) (size off : Nat) : BusReply :=
  match busTarget s.cfg size off with
  | .ok t => { error := false, data := s.readTarget t }
  | .error _ => { error := true, data := 0 }

/-- The FCE after a write; a bus error changes no state, not even WERR, and is found before the busy check
(20_memory.md R44). -/
def State.busWrite (s : State) (size off : Nat) (v : Word) : State :=
  match busTarget s.cfg size off with
  | .ok t => s.writeTarget t v
  | .error _ => s

/-- The offset of a bus address, if the FCE decodes it (00_scope.md R4). -/
def Config.offset? (c : Config) (addr : Nat) : Option Nat :=
  if c.base ≤ addr ∧ addr < c.base + fceSpan then some (addr - c.base) else none

/-- The HOST's bus error, if an access is one: the model's fault (20_memory.md R44, 60_exceptions.md R133). -/
def busFault (c : Config) (size off : Nat) : Option Fault :=
  match busTarget c size off with
  | .ok _ => none
  | .error f => some f

/-- The HOST records the word a read returned. -/
def State.reply (v : Word) (s : State) : State := { s with replies := v :: s.replies }

/-- One bus access, `s` being the state with that access taken off the HOST's program. A POLL whose read
shows BUSY = 1 stays at the program's head (30_encoding.md R67). -/
def hostAccess (op : HostOp) (s : State) : Host.Outcome State Fault Refusal :=
  match op with
  | .read size addr =>
    match Config.offset? s.cfg addr with
    | none => .refused .outsideFce
    | some off =>
      match busFault s.cfg size off with
      | some f => .fault f
      | none => .next (s.reply (s.busRead size off).data)
  | .write size addr v =>
    match Config.offset? s.cfg addr with
    | none => .refused .outsideFce
    | some off =>
      match busFault s.cfg size off with
      | some f => .fault f
      | none => .next (s.busWrite size off v)
  | .poll =>
    let w := s.readTarget (.reg .status)
    if w.getLsbD 8 then .next { s.reply w with prog := .poll :: s.prog } else .next (s.reply w)

/-- The HOST's step (00_scope.md R2): its next bus access, in program order; with none left, nothing
(log entry 6). -/
def hostStep (s : State) : Host.Outcome State Fault Refusal :=
  match s.prog with
  | [] => .next s
  | op :: rest => hostAccess op { s with prog := rest }

end Sys2Proof.Machine
end

