-- ==== Sys2Proof/Decode.lean ====
section
/-! DEFINITION. The decoder, total on every 32-bit word and rejecting by name (30_encoding.md R60 to R64), and the encoder. -/

namespace Sys2Proof

/-- OP, bits 7:0 (30_encoding.md R60). -/
def opField (w : Word) : Byte := w.extractLsb' 0 8

/-- IMM8, bits 15:8 (30_encoding.md R60). -/
def imm8Field (w : Word) : Byte := w.extractLsb' 8 8

/-- RSVD, bits 31:16 (30_encoding.md R60). -/
def rsvdField (w : Word) : Half := w.extractLsb' 16 16

/-- Why a word is illegal: the three kinds 30_encoding.md R64 lists. The ENGINE step does the same for all. -/
inductive IllegalWord where
  /-- RSVD != 0. -/
  | rsvdNotZero
  /-- An OP outside the six of 30_encoding.md R62. -/
  | reservedOp
  /-- IMM8 != 0 with an OP other than CRC_FEED_BYTE's. -/
  | imm8NotZero
deriving DecidableEq, Repr

/-- The name of the rejection of a word that matches no row. -/
def illegalReason (w : Word) : IllegalWord :=
  if rsvdField w ≠ 0 then .rsvdNotZero
  else if opField w ∈ ([0x01, 0x02, 0x03, 0x04, 0x10, 0x11] : List Byte) then .imm8NotZero
  else .reservedOp

/-- `execute`'s choice of a command, row by row as 30_encoding.md R63 writes it. -/
def decode (w : Word) : Except IllegalWord Instr :=
  if w &&& 0xFFFFFFFF = 0x00000001 then .ok .crcLoad
  else if w &&& 0xFFFF00FF = 0x00000002 then .ok (.crcFeedByte (imm8Field w))
  else if w &&& 0xFFFFFFFF = 0x00000003 then .ok .crcFeedWordLe
  else if w &&& 0xFFFFFFFF = 0x00000004 then .ok .crcFeedBuf
  else if w &&& 0xFFFFFFFF = 0x00000010 then .ok .frameEncode
  else if w &&& 0xFFFFFFFF = 0x00000011 then .ok .frameDecode
  else .error (illegalReason w)

/-- A row's mask (30_encoding.md R62). -/
def rowMask : Instr → Word
  | .crcLoad => 0xFFFFFFFF
  | .crcFeedByte _ => 0xFFFF00FF
  | .crcFeedWordLe => 0xFFFFFFFF
  | .crcFeedBuf => 0xFFFFFFFF
  | .frameEncode => 0xFFFFFFFF
  | .frameDecode => 0xFFFFFFFF

/-- A row's match value (30_encoding.md R62). -/
def rowMatch : Instr → Word
  | .crcLoad => 0x00000001
  | .crcFeedByte _ => 0x00000002
  | .crcFeedWordLe => 0x00000003
  | .crcFeedBuf => 0x00000004
  | .frameEncode => 0x00000010
  | .frameDecode => 0x00000011

/-- The command word of an instruction: its row's match value, and for CRC_FEED_BYTE
`(b << 8) OR 0x02` (40_crc.md R86). -/
def encode : Instr → Word
  | .crcLoad => 0x00000001
  | .crcFeedByte b => (b.setWidth 32 <<< 8) ||| 0x02
  | .crcFeedWordLe => 0x00000003
  | .crcFeedBuf => 0x00000004
  | .frameEncode => 0x00000010
  | .frameDecode => 0x00000011

/-- The host's view of the decoder: a command is exactly one 32-bit word with no byte order of its own
(30_encoding.md R60, 20_memory.md R48), so the table's bit numbers are the word's; the bits at and above
`nbits` are 0. -/
def decodeTableWord (nbits w : Nat) : Option Instr :=
  match decode (BitVec.ofNat 32 (w % 2 ^ nbits)) with
  | .ok i => some i
  | .error _ => none

end Sys2Proof
end

