-- ==== Sys2Proof/Machine/Crc.lean ====
section
/-! DEFINITION. The CRC function (40_crc.md R80 to R84). -/

namespace Sys2Proof.Machine

/-- One round of the loop that defines a table entry (40_crc.md R81). -/
def crcRound (c : Word) : Word :=
  if c.getLsbD 0 then (c >>> 1) ^^^ crcPoly else c >>> 1

/-- The loop of 40_crc.md R81: entry n by eight rounds. `crcTable` stores what this computes. -/
def crcLoopEntry (n : Nat) : Word := Nat.iterate crcRound 8 (BitVec.ofNat 32 n)

/-- `step(r, b)` (40_crc.md R82). -/
def crcStep (r : Word) (b : Byte) : Word :=
  crcTable.getD ((r ^^^ b.setWidth 32) &&& 0xFF).toNat 0 ^^^ (r >>> 8)

/-- One bit step, with the input's current bit at position 0 of `b` (40_crc.md R82). -/
def crcBitStep (rb : Word × Byte) : Word × Byte :=
  ((rb.1 >>> 1) ^^^ (if (rb.1 ^^^ rb.2.setWidth 32).getLsbD 0 then crcPoly else 0), rb.2 >>> 1)

/-- `fold(r, data)`, first byte first (40_crc.md R83). -/
def crcFold (r : Word) : List Byte → Word
  | [] => r
  | b :: s => crcFold (crcStep r b) s

/-- `crc32(seed, data)` (40_crc.md R84). -/
def crc32 (seed : Word) (data : List Byte) : Word :=
  crcFold (seed ^^^ crcInvert) data ^^^ crcInvert

end Sys2Proof.Machine
end

