-- ==== Sys2Proof/Machine/CrcCommands.lean ====
section
/-! DEFINITION. The CRC commands (40_crc.md R85 to R88). -/

namespace Sys2Proof.Machine

/-- CRC_LOAD (40_crc.md R85). -/
def execCrcLoad (s : State) : Host.Outcome State Fault Refusal :=
  .next ((s.setR (s.crcSeed ^^^ crcInvert)).finish .ok)

/-- CRC_FEED_BYTE b (40_crc.md R86). -/
def execCrcFeedByte (b : Byte) (s : State) : Host.Outcome State Fault Refusal :=
  .next ((s.setR (crcStep s.r b)).finish .ok)

/-- CRC_FEED_WORD_LE (40_crc.md R87). -/
def execCrcFeedWordLe (s : State) : Host.Outcome State Fault Refusal :=
  .next ((s.setR (crcFold s.r (bytesLE32 s.crcWord))).finish .ok)

/-- CRC_FEED_BUF (40_crc.md R88). The sum OFF + LEN is one of naturals and does not wrap (00_scope.md R5). -/
def execCrcFeedBuf (s : State) : Host.Outcome State Fault Refusal :=
  if s.spanOff.toNat + s.spanLen.toNat > s.cfg.maxPayload then .next (s.finish .paramError)
  else .next ((s.setR (crcFold s.r s.span)).finish .ok)

end Sys2Proof.Machine
end

