-- ==== Sys2Proof/Machine/FrameCommands.lean ====
section
/-! DEFINITION. The wire frame (45_frame.md R100 to R104) and the frame commands (R105 to R118). -/

namespace Sys2Proof.Machine

/-- What the frame CRC covers, frame offsets 1 .. 4+L: classId, msgId, payloadLength big-endian, payload
(45_frame.md R102). -/
def frameBody (cl mg : Byte) (l : Half) (p : List Byte) : List Byte := [cl, mg] ++ bytesBE16 l ++ p

/-- `frameCrc(CL, MG, L, p)` (45_frame.md R102), by a datapath of its own that starts from FRAME_CRC_SEED
(R103). -/
def frameCrc (cl mg : Byte) (l : Half) (p : List Byte) : Word := crc32 frameCrcSeed (frameBody cl mg l p)

/-- The wire frame (45_frame.md R100): header, body, CRC big-endian, tail. -/
def wireFrame (cl mg : Byte) (l : Half) (p : List Byte) : List Byte :=
  [frameHeader] ++ frameBody cl mg l p ++ bytesBE32 (frameCrc cl mg l p) ++ [frameTail]

/-- FRAME_ENCODE (45_frame.md R105). -/
def execFrameEncode (s : State) : Host.Outcome State Fault Refusal :=
  if s.hdrLen.toNat > s.cfg.maxPayload then .next (s.finish .encodeError)
  else
    .next ((s.putFrame (wireFrame s.hdrClass s.hdrMsg s.hdrLen s.payload)
      (frameCrc s.hdrClass s.hdrMsg s.hdrLen s.payload)).finish .ok)

/-- Check (0) of 45_frame.md R111: N is within 10 .. MAX_PAYLOAD + 10. -/
abbrev State.rxSizeOk (s : State) : Prop := 10 ≤ s.rxSize ∧ s.rxSize ≤ s.cfg.maxPayload + 10

/-- Check (1) of 45_frame.md R111: header RXBUF[0] and tail RXBUF[N-1]. -/
abbrev State.rxSentinelsOk (s : State) : Prop :=
  s.bufByte .rxbuf 0 = frameHeader ∧ s.bufByte .rxbuf (s.rxSize - 1) = frameTail

/-- The CRC field received, BE32(RXBUF, N-5) (45_frame.md R110). -/
def State.rxRecv (s : State) : Word := s.rxBE32 (s.rxSize - 5)

/-- The CRC recomputed over RXBUF[1 .. N-6], which are N - 6 bytes (45_frame.md R110, R112). -/
def State.rxCalcCrc (s : State) : Word := crc32 frameCrcSeed (s.bufBytes .rxbuf 1 (s.rxSize - 6))

/-- RX_HDR's new value: RXBUF[1], RXBUF[2], BE16(RXBUF, 3) (45_frame.md R113). -/
def State.rxFrameHdr (s : State) : Word :=
  packFields (s.bufByte .rxbuf 1) (s.bufByte .rxbuf 2) (s.rxBE16 3)

/-- `pay(i)`: payload byte i, 0 at and beyond the payload's length P = N - 10 (45_frame.md R114). -/
def State.rxPay (s : State) (i : Nat) : Byte := if i < s.rxSize - 10 then s.bufByte .rxbuf (5 + i) else 0

/-- RX_ACK's new value: payload bytes 0 and 1, and bytes 2 and 3 big-endian (45_frame.md R104, R114). -/
def State.rxFrameAck (s : State) : Word :=
  packFields (s.rxPay 0) (s.rxPay 1) (be16 (s.rxPay 2) (s.rxPay 3))

/-- FRAME_DECODE (45_frame.md R110), its checks in the order of R111. -/
def execFrameDecode (s : State) : Host.Outcome State Fault Refusal :=
  if ¬ s.rxSizeOk then .next (s.finish .paramError)
  else if ¬ s.rxSentinelsOk then .next (s.finish .framingError)
  else if s.rxRecv ≠ s.rxCalcCrc then
    .next ((s.setRxCrcs s.rxRecv s.rxCalcCrc).finish .integrityError)
  else
    .next (((s.setRxCrcs s.rxRecv s.rxCalcCrc).setRxFrame s.rxFrameHdr s.rxFrameAck).finish .ok)

end Sys2Proof.Machine
end

