-- ==== Sys2Proof/Machine/Dispatch.lean ====
section
/-! DEFINITION. `execute` (30_encoding.md R63): one arm per command, each one call of its meaning. -/

namespace Sys2Proof.Machine

def exec (i : Instr) (s : State) : Host.Outcome State Fault Refusal :=
  match i with
  | .crcLoad => Sys2Proof.Machine.execCrcLoad s
  | .crcFeedByte b => Sys2Proof.Machine.execCrcFeedByte b s
  | .crcFeedWordLe => Sys2Proof.Machine.execCrcFeedWordLe s
  | .crcFeedBuf => Sys2Proof.Machine.execCrcFeedBuf s
  | .frameEncode => Sys2Proof.Machine.execFrameEncode s
  | .frameDecode => Sys2Proof.Machine.execFrameDecode s

end Sys2Proof.Machine
end

