-- ==== Sys2Proof/Machine/Engine.lean ====
section
/-! DEFINITION. The ENGINE's step (10_state.md R26) and the fetch of its command word. -/

namespace Sys2Proof.Machine

/-- `word <- CMD_LATCH`, decoded (10_state.md R26, 30_encoding.md R63). -/
def State.fetch (s : State) : Except IllegalWord Instr := decode s.cmdLatch

/-- The ENGINE step: `execute(CMD_LATCH)`; a word that matches no row does `finish(ILLEGAL_CMD)` and
nothing else (10_state.md R26, 30_encoding.md R63, R64). -/
def engineStep (s : State) : Host.Outcome State Fault Refusal :=
  match s.fetch with
  | .ok i => exec i s
  | .error _ => .next (s.finish .illegalCmd)

/-- The ENGINE's turn: its step is enabled only while BUSY = 1 (00_scope.md R2, 10_state.md R26). -/
def engineTurn (s : State) : Host.Outcome State Fault Refusal :=
  if s.busy then engineStep s else .next s

/-- `s` with a command in progress whose word is `w` (its bits at and above `nbits` 0): the state an
accepted CMD write leaves (10_state.md R14). -/
def State.latch (s : State) (nbits w : Nat) : State :=
  { s with cmdLatch := BitVec.ofNat 32 (w % 2 ^ nbits), busy := true }

end Sys2Proof.Machine
end

