-- ==== Sys2Proof/Machine/Step.lean ====
section
/-! DEFINITION. One step of the machine: the next event of the interleaving (20_memory.md R50). -/

namespace Sys2Proof.Machine

/-- One event: the one `sched` names, or, with none named, the ENGINE's while BUSY = 1 and else the HOST's,
which is weakly fair (70_reset_and_hazards.md R161; log entry 4). -/
def step (s : State) : Host.Outcome State Fault Refusal :=
  match s.sched with
  | .host :: rest => hostStep { s with sched := rest }
  | .engine :: rest => engineTurn { s with sched := rest }
  | .reset d :: rest => .next (({ s with sched := rest } : State).afterReset d)
  | [] => if s.busy then engineStep s else hostStep s

/-- `s` about to run the command word `w`: the FCE fetches no instruction, a command is the value of an
accepted CMD write (20_memory.md R53), so the word stands in CMD_LATCH with BUSY = 1, and the next turn is
the ENGINE's (log entry 9). -/
def State.withFetchWord (s : State) (nbits w : Nat) : State :=
  { s.latch nbits w with sched := .engine :: s.sched }

end Sys2Proof.Machine
end

