-- ==== Sys2Proof/Machine/HostProgram.lean ====
section
/-! DEFINITION. The HOST's notation: the lines and pseudo-instructions of 30_encoding.md R66, R67 as lists of bus accesses, and the whole-image convention of 40_crc.md R89. -/

namespace Sys2Proof.Machine

/-- `WR <target>, <value>` (30_encoding.md R66). -/
def wr (c : Config) (t : Target) (v : Word) : HostOp := .write 4 (c.base + t.offset) v

/-- `RD <target> -> <name>` (30_encoding.md R66); the word read is the newest of `replies`. -/
def rd (c : Config) (t : Target) : HostOp := .read 4 (c.base + t.offset)

/-- `DO <mnemonic>`: `WR CMD, <word>` then `POLL` (30_encoding.md R67). -/
def doCmd (c : Config) (i : Instr) : List HostOp := [wr c (.reg .cmd) (encode i), .poll]

/-- `WRBYTES <buf>+k, b0 b1 ...`: whole words, a byte past the last is 0x00 (30_encoding.md R67). -/
def wrBytes (c : Config) (b : Buf) (k : Nat) : List Byte → List HostOp
  | b0 :: b1 :: b2 :: b3 :: rest => wr c (.buf b k) (le32 b0 b1 b2 b3) :: wrBytes c b (k + 4) rest
  | [b0, b1, b2] => [wr c (.buf b k) (le32 b0 b1 b2 0)]
  | [b0, b1] => [wr c (.buf b k) (le32 b0 b1 0 0)]
  | [b0] => [wr c (.buf b k) (le32 b0 0 0 0)]
  | [] => []

/-- `RDBYTES <buf>+k, n -> name`: the ceil(n / 4) reads (30_encoding.md R67). -/
def rdBytes (c : Config) (b : Buf) (k n : Nat) : List HostOp :=
  (List.range ((n + 3) / 4)).map (fun j => rd c (.buf b (k + 4 * j)))

/-- The words `RDBYTES` read, oldest first, unpacked little-endian, first n bytes kept
(30_encoding.md R67). -/
def unpackBytes (ws : List Word) (n : Nat) : List Byte := (ws.flatMap bytesLE32).take n

/-- P = ceil(F / B) * B (40_crc.md R89). -/
def paddedSize (f b : Nat) : Nat := (f + b - 1) / b * b

/-- I': the image padded with 0xFF to P bytes (40_crc.md R89). -/
def padImage (image : List Byte) (b : Nat) : List Byte :=
  image ++ List.replicate (paddedSize image.length b - image.length) 0xFF

/-- The whole-image CRC, `crc32(0, bytesLE32(P) ‖ I')` (40_crc.md R89). -/
def wholeImageCrc (image : List Byte) (b : Nat) : Word :=
  crc32 0 (bytesLE32 (BitVec.ofNat 32 (paddedSize image.length b)) ++ padImage image b)

/-- One block of the sequence of 40_crc.md R89: into PBUF, CRC_SPAN, CRC_FEED_BUF. DESIGN CHOICE (log
entry 15): R89 does not say where in PBUF a block is written; here it is PBUF+0, so OFF is 0. -/
def feedBlock (c : Config) (block : List Byte) : List HostOp :=
  wrBytes c .pbuf 0 block ++ [wr c (.reg .crcSpan) (packFields 0 0 (BitVec.ofNat 16 block.length))] ++
    doCmd c .crcFeedBuf

/-- The HOST's sequence of 40_crc.md R89: seed 0, the size P as pseudo-header, then the blocks. -/
def imageProgram (c : Config) (p : Word) (blocks : List (List Byte)) : List HostOp :=
  [wr c (.reg .crcSeed) 0] ++ doCmd c .crcLoad ++ [wr c (.reg .crcWord) p] ++ doCmd c .crcFeedWordLe ++
    blocks.flatMap (feedBlock c)

end Sys2Proof.Machine
end

