-- ==== Sys2Proof/Safety.lean ====
section
/-! DEFINITION. What a good state and a good run are, in the terms the statements use. -/

namespace Sys2Proof.Machine

/-- An offset that is a byte of some buffer of this configuration (10_state.md R30). -/
abbrev inBuffers (c : Config) (a : Nat) : Prop :=
  (Buf.pbuf.base ≤ a ∧ a < Buf.pbuf.base + Buf.pbuf.capacity c) ∨
  (Buf.txbuf.base ≤ a ∧ a < Buf.txbuf.base + Buf.txbuf.capacity c) ∨
  (Buf.rxbuf.base ≤ a ∧ a < Buf.rxbuf.base + Buf.rxbuf.capacity c)

/-- The state is one of the hardware's: parameters in range, memory canonical, and nothing listed outside
the buffers. -/
abbrev State.wf (s : State) : Prop :=
  s.cfg.WellFormed ∧ Memory.wf s.mem ∧ ∀ c ∈ s.mem, inBuffers s.cfg c.1

/-- TX_LEN and TX_CRC describe TXBUF (92_eei_decisions.md D27): TX_LEN is 0, as after reset, or
TXBUF[0 .. TX_LEN-1] is the wire frame of 45_frame.md R100 of the payload it carries, and TX_CRC is its
CRC. -/
abbrev State.txConsistent (s : State) : Prop :=
  s.txLen.toNat = 0 ∨
  (10 ≤ s.txLen.toNat ∧ s.txLen.toNat ≤ s.cfg.maxPayload + 10 ∧
    s.bufBytes .txbuf 0 s.txLen.toNat =
      wireFrame (s.bufByte .txbuf 1) (s.bufByte .txbuf 2) (BitVec.ofNat 16 (s.txLen.toNat - 10))
        (s.bufBytes .txbuf 5 (s.txLen.toNat - 10)) ∧
    s.txCrc =
      frameCrc (s.bufByte .txbuf 1) (s.bufByte .txbuf 2) (BitVec.ofNat 16 (s.txLen.toNat - 10))
        (s.bufBytes .txbuf 5 (s.txLen.toNat - 10)))

/-- The invariant every step keeps. -/
abbrev State.Inv (s : State) : Prop := s.wf ∧ s.txConsistent

/-- Several commands, each run on the state the one before it left. -/
def execAll : List Instr → State → Host.Outcome State Fault Refusal
  | [], s => .next s
  | i :: rest, s =>
    match exec i s with
    | .next t => execAll rest t
    | .fault f => .fault f
    | .refused r => .refused r

/-- `k` steps from `s` make no bus error and leave `t`: "a run with a bus error is never a good final
state" (60_exceptions.md R133). -/
def goodRun (k : Nat) (s t : State) : Prop := Sys2Proof.core.run k s = .next t

/-- The next event is the HOST's access `op`, after which its program is `rest` and the turns are `more`:
the HOST's turn by the schedule, or by the model's default while BUSY = 0 (log entry 4). -/
abbrev State.hostNext (s : State) (op : HostOp) (rest : List HostOp) (more : List Turn) : Prop :=
  s.prog = op :: rest ∧ (s.sched = .host :: more ∨ (s.sched = [] ∧ s.busy = false ∧ more = []))

/-- The next event is the ENGINE's step, after which the turns are `more`: the ENGINE's turn by the
schedule, or by the model's default (log entry 4). -/
abbrev State.engineNext (s : State) (more : List Turn) : Prop :=
  s.busy = true ∧ (s.sched = .engine :: more ∨ (s.sched = [] ∧ more = []))

/-- The state with a HOST access taken off the program and its turn off the schedule. -/
def State.pop (s : State) (rest : List HostOp) (more : List Turn) : State :=
  { s with prog := rest, sched := more }

/-- The bytes a command feeds to the running CRC (40_crc.md R86 to R88): a CRC_FEED_BUF outside PBUF and
every other command feed none. -/
def fedBytes (i : Instr) (s : State) : List Byte :=
  match i with
  | .crcLoad => []
  | .crcFeedByte b => [b]
  | .crcFeedWordLe => bytesLE32 s.crcWord
  | .crcFeedBuf => if s.spanOff.toNat + s.spanLen.toNat ≤ s.cfg.maxPayload then s.span else []
  | .frameEncode => []
  | .frameDecode => []

/-- "the seed last loaded and all bytes fed since" (10_state.md R19). It is no state: it is what a reader
of a run writes down beside it. -/
structure Fed where
  seed : Word
  data : List Byte
deriving DecidableEq, Repr

/-- After a command: a CRC_LOAD starts again, every other command adds the bytes it feeds. -/
def Fed.command (i : Instr) (s : State) (g : Fed) : Fed :=
  if i = .crcLoad then { seed := s.crcSeed, data := [] } else { g with data := g.data ++ fedBytes i s }

/-- After an ENGINE turn: an illegal word, or no command in progress, feeds nothing. -/
def Fed.engine (s : State) (g : Fed) : Fed :=
  if s.busy then
    match decode s.cmdLatch with
    | .ok i => g.command i s
    | .error _ => g
  else g

/-- After the next event of `s`: a reset counts as seed 0 and no bytes (70_reset_and_hazards.md R152), and
a HOST access feeds nothing. -/
def Fed.event (s : State) (g : Fed) : Fed :=
  match s.sched with
  | .reset _ :: _ => { seed := 0, data := [] }
  | .host :: _ => g
  | .engine :: _ => g.engine s
  | [] => g.engine s

/-- After `k` steps from `s`. -/
def fedAlong : Nat → State → Fed → Fed
  | 0, _, g => g
  | k + 1, s, g =>
    match step s with
    | .next t => fedAlong k t (g.event s)
    | .fault _ => g
    | .refused _ => g

end Sys2Proof.Machine
end

