-- ==== Sys2Proof/Certificates/Slice0/Obligations.lean ====
section
/-! DEFINITION. The statements for the provers, family by family: decoding and the step, the CRC function and commands, the frame commands, the bus, the registers, reset, and the rules about the whole machine. -/

open Sys2Proof Sys2Proof.Machine

/-! ### Decoding and the step -/

/-- The words of 30_encoding.md ("Word values for quick reference") and of 95_test_vectors.md section 5.1.
That the five last words are illegal is the spec's (30_encoding.md R64); the three names they are rejected
by, and which name a word gets that is illegal for two reasons, are the model's (log entry 13). -/
def Obligations.SampleWordsDecode : Prop :=
  decode 0x00000001 = .ok .crcLoad ∧
  decode 0x00003102 = .ok (.crcFeedByte 0x31) ∧
  decode 0x0000FF02 = .ok (.crcFeedByte 0xFF) ∧
  decode 0x00000003 = .ok .crcFeedWordLe ∧
  decode 0x00000004 = .ok .crcFeedBuf ∧
  decode 0x00000010 = .ok .frameEncode ∧
  decode 0x00000011 = .ok .frameDecode ∧
  decode 0x00000000 = .error .reservedOp ∧
  decode 0x00000501 = .error .imm8NotZero ∧
  decode 0x00010002 = .error .rsvdNotZero ∧
  decode 0x00000012 = .error .reservedOp ∧
  decode 0x80000011 = .error .rsvdNotZero

/-- 30_encoding.md R62: "A command word selects a command exactly when it equals the match value under the
mask below. No other word selects a command." -/
def Obligations.WordSelectsExactlyItsRow : Prop :=
  ∀ w : Word,
    (decode w = .ok .crcLoad ↔ w &&& 0xFFFFFFFF = 0x00000001) ∧
    (∀ b, decode w = .ok (.crcFeedByte b) ↔ (w &&& 0xFFFF00FF = 0x00000002 ∧ b = w.extractLsb' 8 8)) ∧
    (decode w = .ok .crcFeedWordLe ↔ w &&& 0xFFFFFFFF = 0x00000003) ∧
    (decode w = .ok .crcFeedBuf ↔ w &&& 0xFFFFFFFF = 0x00000004) ∧
    (decode w = .ok .frameEncode ↔ w &&& 0xFFFFFFFF = 0x00000010) ∧
    (decode w = .ok .frameDecode ↔ w &&& 0xFFFFFFFF = 0x00000011)

/-- Decode and encode agree for every instruction, both ways: `encode i` is the one word that decodes to
`i` (30_encoding.md R60 to R63: "Every command is exactly one word"). -/
def Obligations.DecodeIsTheInverseOfEncode : Prop :=
  ∀ (w : Word) (i : Instr), i.wellFormed = true → (decode w = .ok i ↔ w = encode i)

/-- 30_encoding.md R64, whole: which words are illegal, that their CMD write is accepted, and that their
ENGINE step reports ILLEGAL_CMD, clears BUSY and changes nothing else. -/
def Obligations.IllegalWordReportsAndChangesNothingElse : Prop :=
  ∀ (w : Word) (s : State),
    (rsvdField w ≠ 0 ∨ opField w ∉ ([0x01, 0x02, 0x03, 0x04, 0x10, 0x11] : List Byte) ∨
      (imm8Field w ≠ 0 ∧ opField w ≠ 0x02)) →
    s.busy = false →
    s.writeTarget (.reg .cmd) w = { s with cmdLatch := w, busy := true } ∧
    engineStep { s with cmdLatch := w, busy := true } =
      .next { s with cmdLatch := w, code := .illegalCmd, busy := false }

/-- 10_state.md R26: while BUSY = 1 the ENGINE's step executes CMD_LATCH: `exec` of the instruction it
decodes to, and the ILLEGAL_CMD finish of a word that decodes to none. The model's choices: that an empty
schedule is the ENGINE's turn while BUSY = 1, and that an ENGINE turn while BUSY = 0 only takes itself off
the schedule (log entry 4); that `withFetchWord` places a word in CMD_LATCH for the next step (log entry 9). -/
def Obligations.StepRunsTheLatchedCommand : Prop :=
  (∀ s : State, s.busy = true →
    (s.sched = [] → step s = engineStep s) ∧
    (∀ rest, s.sched = .engine :: rest → step s = engineStep { s with sched := rest })) ∧
  (∀ (s : State) (i : Instr), decode s.cmdLatch = .ok i → engineStep s = exec i s) ∧
  (∀ s : State, (∀ i, decode s.cmdLatch ≠ .ok i) →
    engineStep s = .next { s with code := .illegalCmd, busy := false }) ∧
  (∀ (s : State) (i : Instr), s.busy = true → decode s.cmdLatch = .ok i →
    (s.sched = [] → step s = exec i s) ∧
    (∀ rest, s.sched = .engine :: rest → step s = exec i { s with sched := rest })) ∧
  (∀ (s : State) (rest : List Turn), s.busy = false → s.sched = .engine :: rest →
    step s = .next { s with sched := rest }) ∧
  (∀ (s : State) (nbits w : Nat), step (s.withFetchWord nbits w) = engineStep (s.latch nbits w)) ∧
  (∀ (s : State) (nbits w : Nat) (i : Instr), decodeTableWord nbits w = some i →
    step (s.withFetchWord nbits w) = exec i (s.latch nbits w))

/-- 60_exceptions.md R130: the ENGINE step always goes on, "A command ends in exactly one `finish(code)`",
after it the FCE is idle and accepts the next CMD write. -/
def Obligations.EveryCommandEndsIdle : Prop :=
  (∀ (i : Instr) (s : State), ∃ t, exec i s = .next t ∧ t.busy = false) ∧
  (∀ s : State, ∃ t, engineStep s = .next t ∧ t.busy = false ∧
    ∀ v, t.writeTarget (.reg .cmd) v = { t with cmdLatch := v, busy := true })

/-! ### The CRC function -/

/-- 40_crc.md R81: the 256 stored entries are those the loop computes, eight rounds with the reflected
polynomial. (The polynomial is general knowledge by the spec's own mark, log entry 11.) -/
def Obligations.TableHoldsTheEntriesOfItsLoop : Prop :=
  crcTable.length = 256 ∧
  ∀ n, n < 256 →
    crcTable[n]? = some (Nat.iterate
      (fun c : Word => if c.getLsbD 0 then (c >>> 1) ^^^ 0xEDB88320 else c >>> 1) 8 (BitVec.ofNat 32 n))

/-- 40_crc.md R82: the table-driven byte step, and that it equals eight bit steps, least significant bit
first. -/
def Obligations.TableStepEqualsEightBitSteps : Prop :=
  ∀ (r : Word) (b : Byte),
    crcStep r b = crcTable.getD ((r ^^^ b.setWidth 32) &&& 0xFF).toNat 0 ^^^ (r >>> 8) ∧
    (Nat.iterate (fun p : Word × Byte =>
      ((p.1 >>> 1) ^^^ (if (p.1 ^^^ p.2.setWidth 32).getLsbD 0 then 0xEDB88320 else 0), p.2 >>> 1))
      8 (r, b)).1 = crcStep r b

/-- 40_crc.md R83: the fold takes the first byte first, and over a concatenation it is one fold after the
other. -/
def Obligations.FoldOverConcatenation : Prop :=
  (∀ r, crcFold r [] = r) ∧ (∀ r b s, crcFold r (b :: s) = crcFold (crcStep r b) s) ∧
  ∀ r a b, crcFold r (a ++ b) = crcFold (crcFold r a) b

/-- 40_crc.md R84: `crc32`, with its guard, its chaining and its check value over the ASCII bytes
"123456789". -/
def Obligations.CrcGuardChainingAndCheckValue : Prop :=
  (∀ seed data, crc32 seed data = crcFold (seed ^^^ 0xFFFFFFFF) data ^^^ 0xFFFFFFFF) ∧
  (∀ seed, crc32 seed [] = seed) ∧
  (∀ seed a b, crc32 (crc32 seed a) b = crc32 seed (a ++ b)) ∧
  crc32 0 [0x31, 0x32, 0x33, 0x34, 0x35, 0x36, 0x37, 0x38, 0x39] = 0xCBF43926

/-! ### The CRC commands -/

/-- 40_crc.md R85: CRC_LOAD's word, its effect and frame in every state, what CRC_VALUE reads after it, and
the corner case of a seed equal to the current CRC_VALUE. -/
def Obligations.CrcLoadEffect : Prop :=
  decode 0x00000001 = .ok .crcLoad ∧
  ∀ s : State,
    exec .crcLoad s = .next { s with r := s.crcSeed ^^^ 0xFFFFFFFF, code := .ok, busy := false } ∧
    ({ s with r := s.crcSeed ^^^ 0xFFFFFFFF, code := .ok, busy := false } : State).readReg .crcValue = s.crcSeed ∧
    (s.crcSeed = s.readReg .crcValue → s.crcSeed ^^^ 0xFFFFFFFF = s.r)

/-- 40_crc.md R86: CRC_FEED_BYTE's word, and its effect and frame in every state; a zero byte is data. -/
def Obligations.CrcFeedByteEffect : Prop :=
  (∀ b : Byte, decode ((b.setWidth 32 <<< 8) ||| 0x02) = .ok (.crcFeedByte b)) ∧
  (∀ (b : Byte) (s : State),
    exec (.crcFeedByte b) s = .next { s with r := crcStep s.r b, code := .ok, busy := false }) ∧
  crcStep 0xFFFFFFFF 0x00 ^^^ 0xFFFFFFFF = 0xD202EF8D ∧
  crcStep 0xFFFFFFFF 0xFF = 0x00FFFFFF ∧
  crcStep 0xFFFFFFFF 0x31 = 0x7C231048

/-- 40_crc.md R87: CRC_FEED_WORD_LE's word, and its effect and frame in every state: w[7:0] is fed first,
w[31:24] last; feeding 0 is no no-op. -/
def Obligations.CrcFeedWordLeEffect : Prop :=
  decode 0x00000003 = .ok .crcFeedWordLe ∧
  (∀ s : State,
    exec .crcFeedWordLe s =
      .next { s with
        r := crcFold s.r [s.crcWord.extractLsb' 0 8, s.crcWord.extractLsb' 8 8,
          s.crcWord.extractLsb' 16 8, s.crcWord.extractLsb' 24 8],
        code := .ok, busy := false }) ∧
  crcFold 0xFFFFFFFF (bytesLE32 0x00000000) ^^^ 0xFFFFFFFF = 0x2144DF1C ∧
  crcFold 0xFFFFFFFF (bytesLE32 0x00003000) ^^^ 0xFFFFFFFF = 0x052F3A8C

/-- 40_crc.md R88, whole: CRC_FEED_BUF's word; PARAM_ERROR with R unchanged when OFF + LEN > MAX_PAYLOAD
(a sum of naturals); else R is folded over PBUF[OFF .. OFF+LEN-1]; and that this is the R of as many
CRC_FEED_BYTE commands with those bytes. -/
def Obligations.CrcFeedBufEffect : Prop :=
  decode 0x00000004 = .ok .crcFeedBuf ∧
  ∀ (s : State) (off len : Nat),
    off = (s.crcSpan.extractLsb' 0 16).toNat → len = (s.crcSpan.extractLsb' 16 16).toNat →
    (off + len > s.cfg.maxPayload →
      exec .crcFeedBuf s = .next { s with code := .paramError, busy := false }) ∧
    (off + len ≤ s.cfg.maxPayload →
      exec .crcFeedBuf s =
        .next { s with
          r := crcFold s.r ((List.range len).map (fun j => s.bufByte .pbuf (off + j))),
          code := .ok, busy := false }) ∧
    (len = 0 → off ≤ s.cfg.maxPayload →
      exec .crcFeedBuf s = .next { s with code := .ok, busy := false }) ∧
    (off + len ≤ s.cfg.maxPayload →
      ∃ t u, exec .crcFeedBuf s = .next t ∧
        execAll ((List.range len).map (fun j => .crcFeedByte (s.bufByte .pbuf (off + j)))) s = .next u ∧
        t.r = u.r)

/-- 10_state.md R19: CRC_VALUE always reads R XOR 0xFFFFFFFF, which is `crc32(seed, data)` of the seed last
loaded and all bytes fed since: after a CRC_LOAD and any commands with the operands that stand, and along
every run, whatever the HOST writes between the commands. `fedBytes` says what each command feeds
(40_crc.md R86 to R88); a run takes the default turn where the schedule is empty (log entry 4). A write to
CRC_VALUE is ignored, and it reads 0 after reset. -/
def Obligations.CrcValueReadsTheRunningCrc : Prop :=
  (∀ s : State, s.readReg .crcValue = s.r ^^^ 0xFFFFFFFF) ∧
  (∀ (s : State) (is : List Instr), (∀ i ∈ is, i ≠ .crcLoad) →
    ∃ t, execAll (.crcLoad :: is) s = .next t ∧
      t.readReg .crcValue = crc32 s.crcSeed (is.flatMap (fun i => fedBytes i s))) ∧
  (∀ (k : Nat) (s t : State) (g : Fed), s.readReg .crcValue = crc32 g.seed g.data → goodRun k s t →
    t.readReg .crcValue = crc32 (fedAlong k s g).seed (fedAlong k s g).data) ∧
  (∀ (s t : State) (rest : List Turn), s.busy = true → s.sched = .engine :: rest →
    decode s.cmdLatch = .ok .crcLoad → step s = .next t → t.readReg .crcValue = crc32 s.crcSeed []) ∧
  (∀ (s : State) (v : Word), s.busy = false → s.writeTarget (.reg .crcValue) v = s) ∧
  State.reset.readReg .crcValue = 0

/-- 40_crc.md R89: from any idle state the HOST's sequence (seed 0, the size P as pseudo-header, then each
block through PBUF) ends with every write accepted and CRC_VALUE reading
`crc32(0, bytesLE32(P) ‖ I')`. The turns are the model's default ones (log entry 4), and that each block
stands at PBUF+0 with OFF = 0 is the model's choice (log entry 15). -/
def Obligations.WholeImageProgramComputesTheImageCrc : Prop :=
  ∀ (s : State) (p : Word) (blocks : List (List Byte)),
    s.cfg.WellFormed → s.busy = false → s.sched = [] → s.prog = imageProgram s.cfg p blocks →
    (∀ b ∈ blocks, b.length ≤ s.cfg.maxPayload) →
    ∃ k t, goodRun k s t ∧ t.prog = [] ∧ t.busy = false ∧ t.code = .ok ∧ t.werr = s.werr ∧
      t.readReg .crcValue = crc32 0 (bytesLE32 p ++ blocks.flatten) ∧
      ∀ image size, 0 < size → p = BitVec.ofNat 32 (paddedSize image.length size) →
        blocks.flatten = padImage image size → t.readReg .crcValue = wholeImageCrc image size

/-! ### The frame -/

/-- 45_frame.md R100, with the CRC of R102: a frame of payload length L is 10 + L bytes, laid out as the
table says, offset by offset. -/
def Obligations.WireFrameLayout : Prop :=
  ∀ (cl mg : Byte) (l : Half) (p : List Byte), p.length = l.toNat →
    (wireFrame cl mg l p).length = 10 + l.toNat ∧
    (wireFrame cl mg l p)[0]? = some 0xAA ∧
    (wireFrame cl mg l p)[1]? = some cl ∧
    (wireFrame cl mg l p)[2]? = some mg ∧
    (wireFrame cl mg l p)[3]? = some (l.extractLsb' 8 8) ∧
    (wireFrame cl mg l p)[4]? = some (l.extractLsb' 0 8) ∧
    (∀ i, i < l.toNat → (wireFrame cl mg l p)[5 + i]? = p[i]?) ∧
    (wireFrame cl mg l p)[5 + l.toNat]? = some ((frameCrc cl mg l p).extractLsb' 24 8) ∧
    (wireFrame cl mg l p)[6 + l.toNat]? = some ((frameCrc cl mg l p).extractLsb' 16 8) ∧
    (wireFrame cl mg l p)[7 + l.toNat]? = some ((frameCrc cl mg l p).extractLsb' 8 8) ∧
    (wireFrame cl mg l p)[8 + l.toNat]? = some ((frameCrc cl mg l p).extractLsb' 0 8) ∧
    (wireFrame cl mg l p)[9 + l.toNat]? = some 0x55 ∧
    frameCrc cl mg l p = crc32 0 ([cl, mg] ++ [l.extractLsb' 8 8, l.extractLsb' 0 8] ++ p)

/-- 45_frame.md R105, whole: FRAME_ENCODE's word; ENCODE_ERROR with nothing else changed when
LEN > MAX_PAYLOAD; else the frame stands in TXBUF from byte 0, TX_LEN and TX_CRC are set, every other byte
of memory reads as before and every other field is unchanged. The bytes stored to are TXBUF[0 .. 9+L]. -/
def Obligations.FrameEncodeEffect : Prop :=
  decode 0x00000010 = .ok .frameEncode ∧
  ∀ (s : State) (cl mg : Byte) (l : Half) (p : List Byte),
    cl = s.frmHdr.extractLsb' 0 8 → mg = s.frmHdr.extractLsb' 8 8 → l = s.frmHdr.extractLsb' 16 16 →
    p = (List.range l.toNat).map (fun j => s.bufByte .pbuf j) →
    (l.toNat > s.cfg.maxPayload →
      exec .frameEncode s = .next { s with code := .encodeError, busy := false }) ∧
    (l.toNat ≤ s.cfg.maxPayload →
      ∃ t, exec .frameEncode s = .next t ∧
        (∀ j, j < 10 + l.toNat → some (t.bufByte .txbuf j) = (wireFrame cl mg l p)[j]?) ∧
        t.txLen.toNat = 10 + l.toNat ∧ t.txCrc = frameCrc cl mg l p ∧ t.code = .ok ∧ t.busy = false ∧
        (∀ a, ¬ (0x40000 ≤ a ∧ a < 0x40000 + (10 + l.toNat)) → Memory.read t.mem a = Memory.read s.mem a) ∧
        t = { s with mem := t.mem, txLen := t.txLen, txCrc := t.txCrc, code := .ok, busy := false })

/-- 45_frame.md R110 and R111, whole: FRAME_DECODE's word, and its four outcomes in the order of their
checks, each with every field it writes and all of memory and every other field unchanged. -/
def Obligations.FrameDecodeOutcomes : Prop :=
  decode 0x00000011 = .ok .frameDecode ∧
  ∀ (s : State) (n : Nat) (recv own : Word),
    n = s.rxLen.toNat →
    recv = be32 (s.bufByte .rxbuf (n - 5)) (s.bufByte .rxbuf (n - 4)) (s.bufByte .rxbuf (n - 3))
      (s.bufByte .rxbuf (n - 2)) →
    own = crc32 0 ((List.range (n - 6)).map (fun j => s.bufByte .rxbuf (1 + j))) →
    (n < 10 ∨ n > s.cfg.maxPayload + 10 →
      exec .frameDecode s = .next { s with code := .paramError, busy := false }) ∧
    (10 ≤ n → n ≤ s.cfg.maxPayload + 10 →
      (s.bufByte .rxbuf 0 ≠ 0xAA ∨ s.bufByte .rxbuf (n - 1) ≠ 0x55 →
        exec .frameDecode s = .next { s with code := .framingError, busy := false }) ∧
      (s.bufByte .rxbuf 0 = 0xAA → s.bufByte .rxbuf (n - 1) = 0x55 →
        (recv ≠ own →
          exec .frameDecode s =
            .next { s with rxCrc := recv, rxCalc := own, code := .integrityError, busy := false }) ∧
        (recv = own →
          exec .frameDecode s =
            .next { s with
              rxCrc := recv, rxCalc := own,
              rxHdr := packFields (s.bufByte .rxbuf 1) (s.bufByte .rxbuf 2)
                (be16 (s.bufByte .rxbuf 3) (s.bufByte .rxbuf 4)),
              rxAck := packFields (if 10 < n then s.bufByte .rxbuf 5 else 0) (if 11 < n then s.bufByte .rxbuf 6 else 0)
                (be16 (if 12 < n then s.bufByte .rxbuf 7 else 0) (if 13 < n then s.bufByte .rxbuf 8 else 0)),
              code := .ok, busy := false })))

/-- 45_frame.md R112: RX_CRC and RX_CALC are written by every FRAME_DECODE that passes the sentinel check,
whatever the comparison gives, and by no other command. -/
def Obligations.ReceivedCrcsAreThoseOfTheLastDecodeThatReachedTheCheck : Prop :=
  (∀ s : State, 10 ≤ s.rxLen.toNat → s.rxLen.toNat ≤ s.cfg.maxPayload + 10 →
    s.bufByte .rxbuf 0 = 0xAA → s.bufByte .rxbuf (s.rxLen.toNat - 1) = 0x55 →
    ∃ t, exec .frameDecode s = .next t ∧
      bytesBE32 t.rxCrc = s.bufBytes .rxbuf (s.rxLen.toNat - 5) 4 ∧
      t.rxCalc = crc32 0 (s.bufBytes .rxbuf 1 (s.rxLen.toNat - 6)) ∧
      (t.code = .ok ∨ t.code = .integrityError)) ∧
  (∀ (i : Instr) (s t : State), exec i s = .next t →
    ¬ (i = .frameDecode ∧ (t.code = .ok ∨ t.code = .integrityError)) →
    t.rxCrc = s.rxCrc ∧ t.rxCalc = s.rxCalc)

/-- 45_frame.md R113 and R114: what a FRAME_DECODE that ends with OK puts into the fields of RX_HDR and
RX_ACK, a payload byte beyond the payload's length counting as 0, and that no other command writes them. -/
def Obligations.GoodFrameFillsHeaderAndAck : Prop :=
  (∀ s t : State, exec .frameDecode s = .next t → t.code = .ok →
    t.rxHdr.extractLsb' 0 8 = s.bufByte .rxbuf 1 ∧
    t.rxHdr.extractLsb' 8 8 = s.bufByte .rxbuf 2 ∧
    t.rxHdr.extractLsb' 24 8 = s.bufByte .rxbuf 3 ∧
    t.rxHdr.extractLsb' 16 8 = s.bufByte .rxbuf 4 ∧
    t.rxAck.extractLsb' 0 8 = (if 10 < s.rxLen.toNat then s.bufByte .rxbuf 5 else 0) ∧
    t.rxAck.extractLsb' 8 8 = (if 11 < s.rxLen.toNat then s.bufByte .rxbuf 6 else 0) ∧
    t.rxAck.extractLsb' 24 8 = (if 12 < s.rxLen.toNat then s.bufByte .rxbuf 7 else 0) ∧
    t.rxAck.extractLsb' 16 8 = (if 13 < s.rxLen.toNat then s.bufByte .rxbuf 8 else 0)) ∧
  (∀ (i : Instr) (s t : State), exec i s = .next t → ¬ (i = .frameDecode ∧ t.code = .ok) →
    t.rxHdr = s.rxHdr ∧ t.rxAck = s.rxAck)

/-- 45_frame.md R115: the fields are found from N, not from the payloadLength field. A frame whose length
field is ANY `l` decodes with OK when its CRC matches, and RX_HDR.LENF reports `l`. -/
def Obligations.DecodeAcceptsAnyLengthField : Prop :=
  ∀ (s : State) (cl mg : Byte) (l : Half) (p : List Byte),
    p.length ≤ s.cfg.maxPayload → s.rxLen.toNat = 10 + p.length →
    s.bufBytes .rxbuf 0 (10 + p.length) = wireFrame cl mg l p →
    ∃ t, exec .frameDecode s = .next t ∧ t.code = .ok ∧ t.rxHdr = packFields cl mg l ∧
      t.rxCrc = frameCrc cl mg l p ∧ t.rxCalc = frameCrc cl mg l p ∧
      t.bufBytes .rxbuf 5 (s.rxLen.toNat - 10) = p

/-- 45_frame.md R110: "Bytes of RXBUF from N upward are not read": two memories that agree on
RXBUF[0 .. N-1] give the same outcome. -/
def Obligations.DecodeReadsNoByteBeyondTheSize : Prop :=
  ∀ (s t : State) (m : Memory),
    (∀ j, j < s.rxLen.toNat → Memory.read m (0x60000 + j) = Memory.read s.mem (0x60000 + j)) →
    exec .frameDecode s = .next t → exec .frameDecode { s with mem := m } = .next { t with mem := m }

/-- 45_frame.md R103: the frame commands never read or write the accumulator R: with any other R they do
the same and leave that R. -/
def Obligations.FrameCommandsNeitherReadNorWriteTheAccumulator : Prop :=
  ∀ (i : Instr) (s : State) (x : Word), i = .frameEncode ∨ i = .frameDecode →
    ∃ t, exec i s = .next t ∧ t.r = s.r ∧ exec i { s with r := x } = .next { t with r := x }

/-- 45_frame.md R118: FRAME_DECODE does not change RXBUF, so a second FRAME_DECODE of the same RXBUF and
RX_LEN gives the same result. -/
def Obligations.DecodeAgainGivesTheSameResult : Prop :=
  ∀ s : State, ∃ t, exec .frameDecode s = .next t ∧
    (∀ i, t.bufByte .rxbuf i = s.bufByte .rxbuf i) ∧ t.rxLen = s.rxLen ∧ exec .frameDecode t = .next t

/-- 45_frame.md R116: encode, copy TXBUF[0 .. 9+L] to RXBUF, set RX_LEN = 10 + L, decode: OK, RX_HDR is
FRM_HDR, the two CRCs are TX_CRC, and RXBUF holds the payload. -/
def Obligations.EncodeThenDecodeReproducesTheFrame : Prop :=
  ∀ (s : State) (l : Nat), l = (s.frmHdr.extractLsb' 16 16).toNat → l ≤ s.cfg.maxPayload →
    ∃ t u, exec .frameEncode s = .next t ∧
      exec .frameDecode
        { t.storeBytes .rxbuf 0 (t.bufBytes .txbuf 0 (10 + l)) with rxLen := BitVec.ofNat 17 (10 + l) } =
          .next u ∧
      u.code = .ok ∧ u.rxHdr = s.frmHdr ∧ u.rxCrc = t.txCrc ∧ u.rxCalc = t.txCrc ∧
      u.bufBytes .rxbuf 5 l = s.bufBytes .pbuf 0 l

/-- 45_frame.md R117: of a frame FRAME_DECODE accepts, any one flipped bit is reported at the same N:
FRAMING_ERROR in byte 0 or byte N-1, INTEGRITY_ERROR in any other byte, never OK. -/
def Obligations.EverySingleBitFlipIsDetected : Prop :=
  ∀ (s t : State) (i j : Nat), exec .frameDecode s = .next t → t.code = .ok →
    i < s.rxLen.toNat → j < 8 →
    ∃ u, exec .frameDecode (s.storeBytes .rxbuf i [s.bufByte .rxbuf i ^^^ (1 <<< j)]) = .next u ∧
      u.code = (if i = 0 ∨ i = s.rxLen.toNat - 1 then .framingError else .integrityError)

/-! ### Frames and codes of all commands -/

/-- The table of 10_state.md section 9: what each command leaves unchanged, in every state. Memory is
unchanged except TXBUF[0 .. 9+L], and that only by FRAME_ENCODE. -/
def Obligations.CommandsLeaveTheRestUnchanged : Prop :=
  ∀ (i : Instr) (s t : State), exec i s = .next t →
    (t.cfg = s.cfg ∧ t.cmdLatch = s.cmdLatch ∧ t.werr = s.werr ∧ t.crcSeed = s.crcSeed ∧
      t.crcWord = s.crcWord ∧ t.crcSpan = s.crcSpan ∧ t.frmHdr = s.frmHdr ∧ t.rxLen = s.rxLen ∧
      t.prog = s.prog ∧ t.sched = s.sched ∧ t.replies = s.replies) ∧
    (i = .frameEncode ∨ i = .frameDecode → t.r = s.r) ∧
    (i ≠ .frameEncode → t.txLen = s.txLen ∧ t.txCrc = s.txCrc ∧ ∀ a, Memory.read t.mem a = Memory.read s.mem a) ∧
    (i ≠ .frameDecode → t.rxHdr = s.rxHdr ∧ t.rxAck = s.rxAck ∧ t.rxCrc = s.rxCrc ∧ t.rxCalc = s.rxCalc) ∧
    (∀ a, ¬ (Buf.txbuf.base ≤ a ∧ a < Buf.txbuf.base + (10 + s.hdrLen.toNat)) →
      Memory.read t.mem a = Memory.read s.mem a)

/-- 60_exceptions.md R131, R132 and R136: which codes each command reports, and that a failed command
commits nothing but STATUS and, on INTEGRITY_ERROR, RX_CRC and RX_CALC. -/
def Obligations.FailedCommandIsPrecise : Prop :=
  ∀ (i : Instr) (s t : State), exec i s = .next t →
    (t.code = .encodeError → i = .frameEncode) ∧
    (t.code = .framingError → i = .frameDecode) ∧
    (t.code = .integrityError → i = .frameDecode) ∧
    (t.code = .paramError → i = .crcFeedBuf ∨ i = .frameDecode) ∧
    t.code ≠ .illegalCmd ∧
    (t.code ≠ .ok → t.code ≠ .integrityError → t = { s with code := t.code, busy := false }) ∧
    (t.code = .integrityError →
      t = { s with rxCrc := t.rxCrc, rxCalc := t.rxCalc, code := .integrityError, busy := false })

/-! ### The bus -/

/-- 20_memory.md R42 and R43, over the map of R41: which accesses at the FCE's offsets are valid, and what
each valid one reaches. -/
def Obligations.ValidAccessesAreAlignedWordsOfTheMap : Prop :=
  (∀ (c : Config) (size off : Nat), c.WellFormed → off < 0x80000 →
    ((∃ t, busTarget c size off = .ok t) ↔
      size = 4 ∧ off % 4 = 0 ∧
        (off ≤ 0x00038 ∨
          (0x20000 ≤ off ∧ off < 0x20000 + c.maxPayload) ∨
          (0x40000 ≤ off ∧ off < 0x40000 + (c.maxPayload + 10)) ∨
          (0x60000 ≤ off ∧ off < 0x60000 + (c.maxPayload + 10))))) ∧
  [Reg.cmd, .status, .crcSeed, .crcValue, .crcWord, .crcSpan, .frmHdr, .txLen, .txCrc, .rxLen, .rxHdr, .rxCrc,
    .rxCalc, .rxAck, .cap].map Reg.offset =
    [0x00, 0x04, 0x08, 0x0C, 0x10, 0x14, 0x18, 0x1C, 0x20, 0x24, 0x28, 0x2C, 0x30, 0x34, 0x38] ∧
  Buf.pbuf.base = 0x20000 ∧ Buf.txbuf.base = 0x40000 ∧ Buf.rxbuf.base = 0x60000 ∧
  (∀ (c : Config) (r : Reg), busTarget c 4 r.offset = .ok (.reg r)) ∧
  (∀ (c : Config) (b : Buf) (k : Nat), c.WellFormed → k % 4 = 0 → k < b.capacity c →
    busTarget c 4 (b.base + k) = .ok (.buf b k))

/-- 20_memory.md R44: a bus error, busy or not, returns 0x00000000, changes no state, not even WERR, and is
the model's fault of the HOST (its name is log entry 7's; whose turn it is, log entry 4's). -/
def Obligations.BusErrorChangesNothingAndIsAHostFault : Prop :=
  ∀ (s : State) (size off : Nat) (f : Fault) (op : HostOp) (rest : List HostOp) (more : List Turn),
    off < 0x80000 → busTarget s.cfg size off = .error f → s.hostNext op rest more →
    (op = .read size (s.cfg.base + off) ∨ ∃ v, op = .write size (s.cfg.base + off) v) →
    step s = .fault f ∧
    s.busRead size off = { error := true, data := 0 } ∧
    ∀ v, s.busWrite size off v = s

/-- An access at a bus address the FCE does not decode is no access of the FCE (00_scope.md R4,
20_memory.md R41): the model refuses it by name (the model's choice, log entry 8; whose turn it is, log
entry 4's). -/
def Obligations.AccessOutsideTheWindowIsRefused : Prop :=
  ∀ (s : State) (size addr : Nat) (op : HostOp) (rest : List HostOp) (more : List Turn),
    (addr < s.cfg.base ∨ s.cfg.base + 0x80000 ≤ addr) → s.hostNext op rest more →
    (op = .read size addr ∨ ∃ v, op = .write size addr v) →
    step s = .refused .outsideFce

/-- 20_memory.md R45: a valid read, busy or not, returns the register's value (10_state.md R14 to R29,
register by register), or four buffer bytes little-endian with 0 for those at or beyond the capacity, and
changes nothing of the FCE. Whose turn it is, is log entry 4's. -/
def Obligations.ReadReturnsItsTargetAndChangesNothing : Prop :=
  ∀ (s : State) (off : Nat) (g : Target) (rest : List HostOp) (more : List Turn),
    off < 0x80000 → busTarget s.cfg 4 off = .ok g → s.hostNext (.read 4 (s.cfg.base + off)) rest more →
    ∃ v, step s = .next { s with prog := rest, sched := more, replies := v :: s.replies } ∧
      (∀ r, g = .reg r → v = s.readReg r) ∧
      (g = .reg .cmd → v = 0) ∧
      (g = .reg .status →
        v.extractLsb' 0 4 = s.code.bits ∧ v.getLsbD 8 = s.busy ∧ v.getLsbD 9 = s.werr ∧ v &&& 0xFFFFFCF0 = 0) ∧
      (g = .reg .crcSeed → v = s.crcSeed) ∧
      (g = .reg .crcValue → v = s.r ^^^ 0xFFFFFFFF) ∧
      (g = .reg .crcWord → v = s.crcWord) ∧
      (g = .reg .crcSpan → v = s.crcSpan) ∧
      (g = .reg .frmHdr → v = s.frmHdr) ∧
      (g = .reg .txLen → v.toNat = s.txLen.toNat) ∧
      (g = .reg .txCrc → v = s.txCrc) ∧
      (g = .reg .rxLen → v.toNat = s.rxLen.toNat) ∧
      (g = .reg .rxHdr → v = s.rxHdr) ∧
      (g = .reg .rxCrc → v = s.rxCrc) ∧
      (g = .reg .rxCalc → v = s.rxCalc) ∧
      (g = .reg .rxAck → v = s.rxAck) ∧
      (g = .reg .cap → s.cfg.WellFormed → v.toNat = s.cfg.maxPayload) ∧
      (∀ b k, g = .buf b k → ∀ i, i < 4 →
        v.extractLsb' (8 * i) 8 = if k + i < b.capacity s.cfg then s.bufByte b (k + i) else 0)

/-- 20_memory.md R46: a valid write while BUSY = 0 does its register's write rule, is ignored by a read-only
register and by TXBUF, and in PBUF or RXBUF replaces exactly the bytes of the word that lie within the
capacity. Whose turn it is, is log entry 4's. -/
def Obligations.IdleWriteDoesItsTargetsRule : Prop :=
  ∀ (s : State) (off : Nat) (v : Word) (g : Target) (rest : List HostOp) (more : List Turn),
    s.cfg.WellFormed → off < 0x80000 → busTarget s.cfg 4 off = .ok g →
    s.hostNext (.write 4 (s.cfg.base + off) v) rest more → s.busy = false →
    ∃ t, step s = .next t ∧
      (g = .reg .cmd → t = { s.pop rest more with cmdLatch := v, busy := true }) ∧
      (g = .reg .status → t = { s.pop rest more with werr := if v.getLsbD 9 then false else s.werr }) ∧
      (g = .reg .crcSeed → t = { s.pop rest more with crcSeed := v }) ∧
      (g = .reg .crcWord → t = { s.pop rest more with crcWord := v }) ∧
      (g = .reg .crcSpan → t = { s.pop rest more with crcSpan := v }) ∧
      (g = .reg .frmHdr → t = { s.pop rest more with frmHdr := v }) ∧
      (g = .reg .rxLen → t = { s.pop rest more with rxLen := v.extractLsb' 0 17 }) ∧
      (∀ r, g = .reg r → r ∈ [Reg.crcValue, .txLen, .txCrc, .rxHdr, .rxCrc, .rxCalc, .rxAck, .cap] →
        t = s.pop rest more) ∧
      (∀ k, g = .buf .txbuf k → t = s.pop rest more) ∧
      (∀ b k, g = .buf b k → b ≠ .txbuf →
        t = { s.pop rest more with mem := t.mem } ∧
        ∀ b' i, i < b'.capacity s.cfg →
          t.bufByte b' i =
            if b' = b ∧ k ≤ i ∧ i < k + 4 then v.extractLsb' (8 * (i - k)) 8 else s.bufByte b' i)

/-- 20_memory.md R47: a valid write while BUSY = 1, whatever its target, changes nothing except WERR. That
it is the HOST's turn is the schedule's (log entry 4). -/
def Obligations.BusyWriteOnlySetsWriteError : Prop :=
  ∀ (s : State) (off : Nat) (v : Word) (g : Target) (rest : List HostOp) (more : List Turn),
    off < 0x80000 → busTarget s.cfg 4 off = .ok g → s.hostNext (.write 4 (s.cfg.base + off) v) rest more →
    s.busy = true →
    step s = .next { s with prog := rest, sched := more, werr := true }

/-- 30_encoding.md R67, POLL: for any finite delay of the ENGINE's step, a POLL reads STATUS until BUSY = 0
and then ends, its last read being STATUS as the command left it. That the ENGINE's turn comes after the n
HOST turns, and the HOST's after it, is the model's default schedule (log entry 4). -/
def Obligations.PollEndsAfterAnyFiniteDelay : Prop :=
  ∀ (n : Nat) (s : State) (rest : List HostOp), s.busy = true → s.sched = List.replicate n .host →
    s.prog = .poll :: rest →
    ∃ t, goodRun (n + 2) s t ∧ t.busy = false ∧ t.prog = rest ∧ t.replies.head? = some t.statusWord

/-- 20_memory.md R53 and 70_reset_and_hazards.md R156: whatever the HOST does in any number of its steps
while a command is in progress, that command does what it would have done at once; only WERR, the HOST's
program and its replies show the delay. -/
def Obligations.OperandsAreThoseOfTheCmdWrite : Prop :=
  ∀ (n : Nat) (s t : State), s.busy = true → s.sched = List.replicate n .host ++ [.engine] →
    goodRun (n + 1) s t →
    ∃ u, engineStep s = .next u ∧
      t = { u with werr := t.werr, prog := t.prog, sched := [], replies := t.replies }

/-! ### Registers -/

/-- 10_state.md R14: a CMD write accepted while BUSY = 0 latches the word, whatever it is, and sets BUSY;
while BUSY = 1 it is ignored like every write while busy; an illegal word's command finishes with
ILLEGAL_CMD; CMD reads 0. -/
def Obligations.CmdWriteLatchesAnyWord : Prop :=
  ∀ (s : State) (v : Word),
    (s.busy = false → s.writeTarget (.reg .cmd) v = { s with cmdLatch := v, busy := true }) ∧
    (s.busy = true → s.writeTarget (.reg .cmd) v = { s with werr := true }) ∧
    (s.busy = false → (∀ i, decode v ≠ .ok i) →
      engineStep (s.writeTarget (.reg .cmd) v) = .next { s with cmdLatch := v, code := .illegalCmd, busy := false }) ∧
    s.readTarget (.reg .cmd) = 0

/-- 10_state.md R15 and R16: STATUS bit by bit, the code numbers, and that a CMD write leaves CODE alone. -/
def Obligations.StatusFieldsAndCodes : Prop :=
  (∀ s : State,
    (s.readReg .status).extractLsb' 0 4 = s.code.bits ∧
    (s.readReg .status).extractLsb' 4 4 = 0 ∧
    (s.readReg .status).getLsbD 8 = s.busy ∧
    (s.readReg .status).getLsbD 9 = s.werr ∧
    (s.readReg .status).extractLsb' 10 22 = 0 ∧
    ∀ v, (s.writeTarget (.reg .cmd) v).code = s.code) ∧
  Code.ok.bits = 0 ∧ Code.encodeError.bits = 1 ∧ Code.framingError.bits = 2 ∧
  Code.integrityError.bits = 3 ∧ Code.paramError.bits = 4 ∧ Code.illegalCmd.bits = 5

/-- 10_state.md R17: a write to STATUS while BUSY = 0 clears WERR when bit 9 is 1 and does nothing else;
while BUSY = 1 it is ignored and sets WERR. -/
def Obligations.StatusWriteClearsWriteErrorOnly : Prop :=
  ∀ (s : State) (v : Word),
    (s.busy = false → v.getLsbD 9 = true → s.writeTarget (.reg .status) v = { s with werr := false }) ∧
    (s.busy = false → v.getLsbD 9 = false → s.writeTarget (.reg .status) v = s) ∧
    (s.busy = true → s.writeTarget (.reg .status) v = { s with werr := true })

/-- 10_state.md R25 and R23: RX_LEN keeps bits 16:0 of an accepted write and reads them back with bits 31:17
zero, no command writes it, and TX_LEN's bits 31:17 read 0. -/
def Obligations.LengthRegistersHoldSeventeenBits : Prop :=
  (∀ (s : State) (v : Word), s.busy = false →
    (s.writeTarget (.reg .rxLen) v).readReg .rxLen = v &&& 0x0001FFFF) ∧
  (∀ (i : Instr) (s t : State), exec i s = .next t → t.readReg .rxLen = s.readReg .rxLen) ∧
  (∀ s : State, (s.readReg .txLen).extractLsb' 17 15 = 0 ∧ (s.readReg .rxLen).extractLsb' 17 15 = 0)

/-- 10_state.md R18, R20, R21 and R22: the four full-width operand registers read back what an accepted
write stored, and no command writes them. -/
def Obligations.OperandRegistersReadBackWhatWasWritten : Prop :=
  (∀ (s : State) (r : Reg) (v : Word), r ∈ [Reg.crcSeed, .crcWord, .crcSpan, .frmHdr] → s.busy = false →
    (s.writeTarget (.reg r) v).readReg r = v) ∧
  (∀ (s : State) (r : Reg) (i : Instr) (t : State), r ∈ [Reg.crcSeed, .crcWord, .crcSpan, .frmHdr] →
    exec i s = .next t → t.readReg r = s.readReg r)

/-- 10_state.md R24: CAP reads MAX_PAYLOAD in bits 15:0 and 0 above, no step changes it, and a write to it
is ignored. -/
def Obligations.CapReadsMaxPayloadAlways : Prop :=
  (∀ s : State, s.cfg.WellFormed →
    (s.readReg .cap).toNat = s.cfg.maxPayload ∧ (s.readReg .cap).extractLsb' 16 16 = 0) ∧
  (∀ s t : State, step s = .next t → t.cfg = s.cfg ∧ t.readReg .cap = s.readReg .cap) ∧
  (∀ (s : State) (v : Word), s.busy = false → s.writeTarget (.reg .cap) v = s)

/-! ### Reset -/

/-- 70_reset_and_hazards.md R150: a reset, power-up or a reset turn at any point of an execution, sets every
register to its reset value, and the buffers may hold any contents after it: for every contents there is a
draw that gives them. -/
def Obligations.ResetEventSetsEveryRegisterAndDrawsTheBuffers : Prop :=
  ∀ c : Config, c.WellFormed →
    (∀ (s : State) (d : InitBuf) (rest : List Turn), s.cfg = c → s.sched = .reset d :: rest →
      ∃ t, step s = .next t ∧ (∀ r, r ≠ .cap → t.readReg r = 0) ∧ (t.readReg .cap).toNat = c.maxPayload ∧
        t.r = 0xFFFFFFFF ∧ t.cmdLatch = 0 ∧ t.busy = false ∧ t.werr = false ∧ t.code = .ok) ∧
    (∀ (d : InitBuf) (prog : List HostOp) (sched : List Turn) (t : State), t = State.powerUp c d prog sched →
      (∀ r, r ≠ .cap → t.readReg r = 0) ∧ (t.readReg .cap).toNat = c.maxPayload ∧
        t.r = 0xFFFFFFFF ∧ t.cmdLatch = 0 ∧ t.busy = false ∧ t.werr = false ∧ t.code = .ok) ∧
    (∀ contents : Buf → Nat → Byte, ∃ d : InitBuf,
      (∀ (s : State) (rest : List Turn), s.cfg = c → s.sched = .reset d :: rest →
        ∃ t, step s = .next t ∧ ∀ b i, i < b.capacity c → t.bufByte b i = contents b i) ∧
      ∀ (prog : List HostOp) (sched : List Turn) (b : Buf) (i : Nat), i < b.capacity c →
        (State.powerUp c d prog sched).bufByte b i = contents b i)

/-- 70_reset_and_hazards.md R151: a reset while BUSY = 1 abandons the command: what it leaves does not
depend on the command in progress, nor on anything else of the FCE. -/
def Obligations.ResetAbandonsTheCommandInProgress : Prop :=
  ∀ (s u : State) (d : InitBuf) (rest : List Turn),
    s.busy = true → s.sched = .reset d :: rest → u.sched = .reset d :: rest →
    u.cfg = s.cfg → u.prog = s.prog → u.replies = s.replies →
    step s = step u ∧ ∃ t, step s = .next t ∧ t.busy = false

/-- The invariant holds at power-up, in every configuration and for every draw, and so in `State.reset`,
whose configuration and draw are the model's choices (log entries 1, 2). -/
def Obligations.PowerUpMeetsTheStateInvariant : Prop :=
  (∀ (c : Config) (d : InitBuf) (prog : List HostOp) (sched : List Turn), c.WellFormed →
    (State.powerUp c d prog sched).Inv) ∧
  State.reset = State.powerUp Config.reference { pbuf := [], txbuf := [], rxbuf := [] } [] [] ∧
  State.reset.Inv

/-! ### The whole machine -/

/-- Every step keeps the invariant: parameters in range, memory canonical and within the buffers
(10_state.md R30), and TX_LEN and TX_CRC describing the frame in TXBUF (92_eei_decisions.md D27: "Only
FRAME_ENCODE writes TXBUF, so TX_LEN and TX_CRC always describe its contents"). -/
def Obligations.EveryStepKeepsTheStateInvariant : Prop :=
  ∀ s t : State, s.Inv → step s = .next t → t.Inv

/-- 10_state.md R12: R changes only in a reset or in the ENGINE step of a CRC command. -/
def Obligations.AccumulatorChangesOnlyByCrcCommands : Prop :=
  ∀ s t : State, step s = .next t → t.r ≠ s.r →
    (∃ d rest, s.sched = .reset d :: rest) ∨
    (∃ more i, s.engineNext more ∧ decode s.cmdLatch = .ok i ∧ i ≠ .frameEncode ∧ i ≠ .frameDecode ∧
      exec i { s with sched := more } = .next t ∧ t.busy = false ∧ t.code = .ok)

/-- 10_state.md R23 and R30: TX_LEN, TX_CRC and the bytes of TXBUF change only in a reset or in the ENGINE
step of a FRAME_ENCODE that ends with OK, the bytes only below the new TX_LEN. -/
def Obligations.TransmitSideChangesOnlyByFrameEncode : Prop :=
  ∀ s t : State, s.wf → step s = .next t →
    (∃ d rest, s.sched = .reset d :: rest) ∨
    (∃ more, s.engineNext more ∧ decode s.cmdLatch = .ok .frameEncode ∧
      exec .frameEncode { s with sched := more } = .next t ∧ t.busy = false ∧ t.code = .ok ∧
      ∀ i, i < Buf.txbuf.capacity s.cfg → t.txLen.toNat ≤ i → t.bufByte .txbuf i = s.bufByte .txbuf i) ∨
    (t.txLen = s.txLen ∧ t.txCrc = s.txCrc ∧
      ∀ i, i < Buf.txbuf.capacity s.cfg → t.bufByte .txbuf i = s.bufByte .txbuf i)

/-- 10_state.md R30: a byte of PBUF or RXBUF changes only in a reset or in an accepted bus write to the
word that holds it. -/
def Obligations.HostBuffersChangeOnlyByBusWrites : Prop :=
  ∀ (s t : State) (b : Buf) (i : Nat), s.wf → step s = .next t → b ≠ .txbuf → i < b.capacity s.cfg →
    t.bufByte b i ≠ s.bufByte b i →
    (∃ d rest, s.sched = .reset d :: rest) ∨
    (s.busy = false ∧ ∃ v rest more, s.hostNext (.write 4 (s.cfg.base + (b.base + (i - i % 4))) v) rest more)

/-- 10_state.md R14 and R15: BUSY rises only by an accepted write to CMD, which latches the word written. -/
def Obligations.BusyRisesOnlyByACmdWrite : Prop :=
  ∀ s t : State, step s = .next t → s.busy = false → t.busy = true →
    ∃ v rest more, s.hostNext (.write 4 (s.cfg.base + 0x00) v) rest more ∧ t.cmdLatch = v ∧ t.code = s.code

/-- 60_exceptions.md R136: WERR is sticky: only a reset, or a write of 1 to STATUS bit 9 while BUSY = 0,
clears it. -/
def Obligations.WriteErrorIsSticky : Prop :=
  ∀ s t : State, step s = .next t → s.werr = true → t.werr = false →
    (∃ d rest, s.sched = .reset d :: rest) ∨
    (s.busy = false ∧ ∃ v rest more, s.hostNext (.write 4 (s.cfg.base + 0x04) v) rest more ∧ v.getLsbD 9 = true)

/-- 10_state.md R23, R27, R28 and R29: what a bus read at each result register's offset returns, and so what
a HOST reads there after a FRAME_ENCODE with OK and after a FRAME_DECODE that reached the CRC check
(45_frame.md R105, R112 to R114). -/
def Obligations.ResultRegistersReadWhatTheirCommandLeft : Prop :=
  (∀ s : State,
    ((s.busRead 4 0x1C).data.extractLsb' 0 17 = s.txLen ∧ (s.busRead 4 0x1C).data.extractLsb' 17 15 = 0) ∧
    s.busRead 4 0x20 = { error := false, data := s.txCrc } ∧
    s.busRead 4 0x28 = { error := false, data := s.rxHdr } ∧
    s.busRead 4 0x2C = { error := false, data := s.rxCrc } ∧
    s.busRead 4 0x30 = { error := false, data := s.rxCalc } ∧
    s.busRead 4 0x34 = { error := false, data := s.rxAck }) ∧
  (∀ (s t : State) (l : Half), l = s.frmHdr.extractLsb' 16 16 → exec .frameEncode s = .next t → t.code = .ok →
    (t.busRead 4 0x1C).data.toNat = 10 + l.toNat ∧
    (t.busRead 4 0x20).data =
      frameCrc (s.frmHdr.extractLsb' 0 8) (s.frmHdr.extractLsb' 8 8) l (s.bufBytes .pbuf 0 l.toNat)) ∧
  (∀ (s t : State) (n : Nat), n = s.rxLen.toNat → exec .frameDecode s = .next t →
    (t.code = .ok ∨ t.code = .integrityError →
      bytesBE32 (t.busRead 4 0x2C).data = s.bufBytes .rxbuf (n - 5) 4 ∧
      (t.busRead 4 0x30).data = crc32 0 (s.bufBytes .rxbuf 1 (n - 6))) ∧
    (t.code = .ok →
      (t.busRead 4 0x28).data =
        packFields (s.bufByte .rxbuf 1) (s.bufByte .rxbuf 2) (be16 (s.bufByte .rxbuf 3) (s.bufByte .rxbuf 4)) ∧
      (t.busRead 4 0x34).data =
        packFields (if 10 < n then s.bufByte .rxbuf 5 else 0) (if 11 < n then s.bufByte .rxbuf 6 else 0)
          (be16 (if 12 < n then s.bufByte .rxbuf 7 else 0) (if 13 < n then s.bufByte .rxbuf 8 else 0))))

/-- 10_state.md R27 to R29 with 45_frame.md R112 to R114: RX_HDR, RX_ACK, RX_CRC and RX_CALC change only in
a reset or in the ENGINE step of a FRAME_DECODE, the CRCs only when it ends with OK or INTEGRITY_ERROR, the
other two only when it ends with OK. No HOST turn and no illegal word changes them. -/
def Obligations.ReceiveSideChangesOnlyByFrameDecode : Prop :=
  ∀ s t : State, step s = .next t →
    (∃ d rest, s.sched = .reset d :: rest) ∨
    (∃ more, s.engineNext more ∧ decode s.cmdLatch = .ok .frameDecode ∧
      exec .frameDecode { s with sched := more } = .next t ∧ t.busy = false ∧
      (t.code = .ok ∨ (t.code = .integrityError ∧ t.rxHdr = s.rxHdr ∧ t.rxAck = s.rxAck))) ∨
    (t.rxHdr = s.rxHdr ∧ t.rxAck = s.rxAck ∧ t.rxCrc = s.rxCrc ∧ t.rxCalc = s.rxCalc)
end

