-- ==== Sys2Proof/Laws/Bytes.lean ====
section
/-! SUPPORT. Byte orders: packing bytes and taking them out again are inverse. -/

namespace Sys2Proof.Machine

theorem le32_byte0 (b0 b1 b2 b3 : Byte) : (le32 b0 b1 b2 b3).extractLsb' 0 8 = b0 := by
  apply BitVec.eq_of_getLsbD_eq; intro i hi; unfold le32; interval_cases i <;> simp

theorem le32_byte1 (b0 b1 b2 b3 : Byte) : (le32 b0 b1 b2 b3).extractLsb' 8 8 = b1 := by
  apply BitVec.eq_of_getLsbD_eq; intro i hi; unfold le32; interval_cases i <;> simp

theorem le32_byte2 (b0 b1 b2 b3 : Byte) : (le32 b0 b1 b2 b3).extractLsb' 16 8 = b2 := by
  apply BitVec.eq_of_getLsbD_eq; intro i hi; unfold le32; interval_cases i <;> simp

theorem le32_byte3 (b0 b1 b2 b3 : Byte) : (le32 b0 b1 b2 b3).extractLsb' 24 8 = b3 := by
  apply BitVec.eq_of_getLsbD_eq; intro i hi; unfold le32; interval_cases i <;> simp

/-- The bytes of a little-endian word are the bytes it was made of. -/
@[simp] theorem bytesLE32_le32 (b0 b1 b2 b3 : Byte) : bytesLE32 (le32 b0 b1 b2 b3) = [b0, b1, b2, b3] := by
  simp only [bytesLE32, le32_byte0, le32_byte1, le32_byte2, le32_byte3]

@[simp] theorem bytesLE32_length (v : Word) : (bytesLE32 v).length = 4 := rfl

@[simp] theorem bytesBE32_length (v : Word) : (bytesBE32 v).length = 4 := rfl

@[simp] theorem bytesBE16_length (v : Half) : (bytesBE16 v).length = 2 := rfl

/-- A little-endian word of a word's bytes is the word. -/
theorem le32_bytes (v : Word) :
    le32 (v.extractLsb' 0 8) (v.extractLsb' 8 8) (v.extractLsb' 16 8) (v.extractLsb' 24 8) = v := by
  apply BitVec.eq_of_getLsbD_eq; intro i hi; unfold le32; interval_cases i <;> simp

/-- A big-endian word of a word's bytes is the word. -/
theorem be32_bytes (v : Word) :
    be32 (v.extractLsb' 24 8) (v.extractLsb' 16 8) (v.extractLsb' 8 8) (v.extractLsb' 0 8) = v := by
  apply BitVec.eq_of_getLsbD_eq; intro i hi; unfold be32; interval_cases i <;> simp

/-- A big-endian half of a half's bytes is the half. -/
theorem be16_bytes (v : Half) : be16 (v.extractLsb' 8 8) (v.extractLsb' 0 8) = v := by
  apply BitVec.eq_of_getLsbD_eq; intro i hi; unfold be16; interval_cases i <;> simp

/-- A big-endian word determines its bytes. -/
theorem be32_inj {a b c d a' b' c' d' : Byte} (h : be32 a b c d = be32 a' b' c' d') :
    a = a' ∧ b = b' ∧ c = c' ∧ d = d' := by
  have key : ∀ i, (be32 a b c d).getLsbD i = (be32 a' b' c' d').getLsbD i := fun i => by rw [h]
  refine ⟨?_, ?_, ?_, ?_⟩ <;> apply BitVec.eq_of_getLsbD_eq <;> intro i hi
  · have := key (24 + i); unfold be32 at this; interval_cases i <;> simpa using this
  · have := key (16 + i); unfold be32 at this; interval_cases i <;> simpa using this
  · have := key (8 + i); unfold be32 at this; interval_cases i <;> simpa using this
  · have := key i; unfold be32 at this; interval_cases i <;> simpa using this

theorem packFields_lo (lo mid : Byte) (hi : Half) : (packFields lo mid hi).extractLsb' 0 8 = lo := by
  apply BitVec.eq_of_getLsbD_eq; intro i h; unfold packFields; interval_cases i <;> simp

theorem packFields_mid (lo mid : Byte) (hi : Half) : (packFields lo mid hi).extractLsb' 8 8 = mid := by
  apply BitVec.eq_of_getLsbD_eq; intro i h; unfold packFields; interval_cases i <;> simp

theorem packFields_hi (lo mid : Byte) (hi : Half) : (packFields lo mid hi).extractLsb' 16 16 = hi := by
  apply BitVec.eq_of_getLsbD_eq; intro i h; unfold packFields; interval_cases i <;> simp

/-- The bits 15:0 of a register of this layout, where both bytes are 0. -/
theorem packFields_low16_zero (hi : Half) : (packFields 0 0 hi).extractLsb' 0 16 = 0 := by
  apply BitVec.eq_of_getLsbD_eq; intro i h; unfold packFields; interval_cases i <;> simp

/-- A register is packed from its own fields. -/
theorem packFields_fields (v : Word) :
    packFields (v.extractLsb' 0 8) (v.extractLsb' 8 8) (v.extractLsb' 16 16) = v := by
  apply BitVec.eq_of_getLsbD_eq; intro i hi; unfold packFields; interval_cases i <;> simp

end Sys2Proof.Machine
end

