-- ==== Sys2Proof/Laws/Memory.lean ====
section
/-! SUPPORT. Memory: what a read gives after a write, and that every write keeps the canonical form. -/

namespace Sys2Proof.Machine

@[simp] theorem Memory.read_nil (x : Nat) : Memory.read [] x = Memory.unlisted := rfl

theorem Memory.read_append_of_not_mem (m n : Memory) (x : Nat) (h : ∀ c ∈ m, c.1 ≠ x) :
    Memory.read (m ++ n) x = Memory.read n x := by
  induction m with
  | nil => rfl
  | cons c m ih =>
    obtain ⟨k, b⟩ := c
    have hk : k ≠ x := h (k, b) (by simp)
    simp only [List.cons_append, Memory.read, hk, if_false]
    exact ih (fun c hc => h c (by simp [hc]))

theorem Memory.read_append_of_not_mem_right (m n : Memory) (x : Nat) (h : ∀ c ∈ n, c.1 ≠ x) :
    Memory.read (m ++ n) x = Memory.read m x := by
  induction m with
  | nil =>
    induction n with
    | nil => rfl
    | cons c n ih =>
      obtain ⟨k, b⟩ := c
      have hk : k ≠ x := h (k, b) (by simp)
      simpa [Memory.read, hk] using ih (fun c hc => h c (by simp [hc]))
  | cons c m ih => simp only [List.cons_append, Memory.read, ih]

theorem Memory.read_of_not_mem (m : Memory) (x : Nat) (h : ∀ c ∈ m, c.1 ≠ x) :
    Memory.read m x = Memory.unlisted := by
  simpa using Memory.read_append_of_not_mem m [] x h

theorem Memory.read_filter (m : Memory) (p : Host.Cell → Bool) (x : Nat) (h : ∀ b, p (x, b) = true) :
    Memory.read (m.filter p) x = Memory.read m x := by
  induction m with
  | nil => rfl
  | cons c m ih =>
    obtain ⟨k, b⟩ := c
    by_cases hk : k = x
    · subst hk; simp [List.filter, h b, Memory.read]
    · by_cases hp : p (k, b) = true <;> simp [List.filter, hp, Memory.read, hk, ih]

theorem Memory.mem_cells {a : Nat} {bs : List Byte} {c : Host.Cell} (h : c ∈ Memory.cells a bs) :
    a ≤ c.1 ∧ c.1 < a + bs.length ∧ c.2 ≠ Memory.unlisted := by
  induction bs generalizing a with
  | nil => simp [Memory.cells] at h
  | cons b bs ih =>
    simp only [Memory.cells] at h
    split at h
    · obtain ⟨h1, h2, h3⟩ := ih h; simp only [List.length_cons]; exact ⟨by omega, by omega, h3⟩
    · rename_i hb
      rcases List.mem_cons.1 h with rfl | h
      · simp [hb]
      · obtain ⟨h1, h2, h3⟩ := ih h; simp only [List.length_cons]; exact ⟨by omega, by omega, h3⟩

theorem Memory.read_cells (a : Nat) (bs : List Byte) (x : Nat) :
    Memory.read (Memory.cells a bs) x =
      if a ≤ x ∧ x < a + bs.length then bs.getD (x - a) 0 else Memory.unlisted := by
  induction bs generalizing a with
  | nil => simp only [Memory.cells, Memory.read_nil, List.length_nil]; rw [if_neg (by omega)]
  | cons b bs ih =>
    have hrest : ∀ y, y ≤ a → Memory.read (Memory.cells (a + 1) bs) y = Memory.unlisted := fun y hy =>
      Memory.read_of_not_mem _ _ (fun c hc => by have := Memory.mem_cells hc; omega)
    have hhead : Memory.read (Memory.cells a (b :: bs)) x =
        if x = a then b else Memory.read (Memory.cells (a + 1) bs) x := by
      simp only [Memory.cells]
      by_cases hb : b = Memory.unlisted <;> by_cases hx : x = a
      · simp [hb, hx, hrest a (Nat.le_refl a)]
      · simp [hb, hx]
      · simp [hb, hx, Memory.read]
      · simp [hb, hx, Memory.read, Ne.symm hx]
    rw [hhead, List.length_cons]
    rcases Nat.lt_trichotomy x a with h | h | h
    · rw [if_neg (by omega), if_neg (by omega), hrest x (by omega)]
    · subst h
      rw [if_pos rfl, if_pos (by omega)]
      simp
    · have hx : x - a = (x - (a + 1)) + 1 := by omega
      rw [if_neg (by omega), ih, hx, List.getD_cons_succ]
      by_cases hl : x < a + (bs.length + 1)
      · rw [if_pos (by omega), if_pos (by omega)]
      · rw [if_neg (by omega), if_neg (by omega)]

/-- A read after a store: the stored bytes where they were stored, what was there before elsewhere. -/
theorem Memory.read_writeBytes (m : Memory) (a : Nat) (bs : List Byte) (x : Nat) :
    Memory.read (Memory.writeBytes m a bs) x =
      if a ≤ x ∧ x < a + bs.length then bs.getD (x - a) 0 else Memory.read m x := by
  unfold Memory.writeBytes
  by_cases h1 : x < a
  · rw [if_neg (by omega),
      Memory.read_append_of_not_mem_right _ _ _ (by
        intro c hc; have := (List.mem_filter.1 hc).2; simp at this; omega),
      Memory.read_append_of_not_mem_right _ _ _ (by
        intro c hc; have := Memory.mem_cells hc; omega)]
    exact Memory.read_filter _ _ _ (by simp [h1])
  · by_cases h2 : x < a + bs.length
    · rw [if_pos (by omega),
        Memory.read_append_of_not_mem_right _ _ _ (by
          intro c hc; have := (List.mem_filter.1 hc).2; simp at this; omega),
        Memory.read_append_of_not_mem _ _ _ (by
          intro c hc; have := (List.mem_filter.1 hc).2; simp at this; omega),
        Memory.read_cells, if_pos (by omega)]
    · rw [if_neg (by omega),
        Memory.read_append_of_not_mem _ _ _ (by
          intro c hc
          rcases List.mem_append.1 hc with hc | hc
          · have := (List.mem_filter.1 hc).2; simp at this; omega
          · have := Memory.mem_cells hc; omega)]
      exact Memory.read_filter _ _ _ (by simp; omega)

theorem Memory.cells_wf (a : Nat) (bs : List Byte) : Memory.wf (Memory.cells a bs) := by
  refine ⟨?_, fun c hc => (Memory.mem_cells hc).2.2⟩
  induction bs generalizing a with
  | nil => simp [Memory.cells]
  | cons b bs ih =>
    simp only [Memory.cells]
    split
    · exact ih _
    · refine List.pairwise_cons.2 ⟨fun c hc => ?_, ih _⟩
      have := Memory.mem_cells hc
      simp only; omega

/-- Every store keeps the canonical form. -/
theorem Memory.writeBytes_wf {m : Memory} (h : Memory.wf m) (a : Nat) (bs : List Byte) :
    Memory.wf (Memory.writeBytes m a bs) := by
  unfold Memory.writeBytes
  refine ⟨?_, ?_⟩
  · rw [List.pairwise_append, List.pairwise_append]
    refine ⟨⟨h.1.filter _, (Memory.cells_wf a bs).1, ?_⟩, h.1.filter _, ?_⟩
    · intro c hc d hd
      have := (List.mem_filter.1 hc).2; have := Memory.mem_cells hd; simp_all; omega
    · intro c hc d hd
      have hd' := (List.mem_filter.1 hd).2
      simp only [decide_eq_true_eq] at hd'
      rcases List.mem_append.1 hc with hc | hc
      · have := (List.mem_filter.1 hc).2; simp only [decide_eq_true_eq] at this; omega
      · have := Memory.mem_cells hc; omega
  · intro c hc
    rcases List.mem_append.1 hc with hc | hc
    · rcases List.mem_append.1 hc with hc | hc
      · exact h.2 c (List.mem_filter.1 hc).1
      · exact (Memory.mem_cells hc).2.2
    · exact h.2 c (List.mem_filter.1 hc).1

theorem Memory.nil_wf : Memory.wf [] := ⟨List.Pairwise.nil, fun _ h => nomatch h⟩

/-- What a store lists was listed before or is one of the stored bytes. -/
theorem Memory.mem_writeBytes {m : Memory} {a : Nat} {bs : List Byte} {c : Host.Cell}
    (h : c ∈ Memory.writeBytes m a bs) : c ∈ m ∨ (a ≤ c.1 ∧ c.1 < a + bs.length) := by
  unfold Memory.writeBytes at h
  rcases List.mem_append.1 h with h | h
  · rcases List.mem_append.1 h with h | h
    · exact .inl (List.mem_filter.1 h).1
    · exact .inr ⟨(Memory.mem_cells h).1, (Memory.mem_cells h).2.1⟩
  · exact .inl (List.mem_filter.1 h).1

/-- In a canonical memory, a byte that reads as something else than unlisted is listed, and only such bytes
are: so two canonical memories that read alike are equal. -/
theorem Memory.read_eq_of_mem {m : Memory} (h : Memory.wf m) {c : Host.Cell} (hc : c ∈ m) :
    Memory.read m c.1 = c.2 := by
  obtain ⟨hp, hz⟩ := h
  induction m with
  | nil => simp at hc
  | cons d m ih =>
    obtain ⟨k, b⟩ := d
    rw [List.pairwise_cons] at hp
    rcases List.mem_cons.1 hc with rfl | hc'
    · simp [Memory.read]
    · have := hp.1 c hc'
      rw [Memory.read, if_neg (by simpa using Nat.ne_of_lt this)]
      exact ih hc' hp.2 (fun d hd => hz d (by simp [hd]))

/-- The memory a reset draws is canonical. -/
theorem Memory.ofInit_wf (c : Config) (d : InitBuf) : Memory.wf (Memory.ofInit c d) :=
  Memory.writeBytes_wf (Memory.writeBytes_wf (Memory.writeBytes_wf Memory.nil_wf _ _) _ _) _ _

@[simp] theorem State.bufBytes_length (s : State) (b : Buf) (i n : Nat) : (s.bufBytes b i n).length = n := by
  simp [State.bufBytes]

/-- A span of a buffer holds the buffer's bytes. -/
theorem State.bufBytes_getElem (s : State) (b : Buf) (i n j : Nat) (h : j < (s.bufBytes b i n).length) :
    (s.bufBytes b i n)[j] = s.bufByte b (i + j) := by
  simp [State.bufBytes]

/-- Two adjacent spans are one. -/
theorem State.bufBytes_append (s : State) (b : Buf) (i m n : Nat) :
    s.bufBytes b i (m + n) = s.bufBytes b i m ++ s.bufBytes b (i + m) n := by
  simp [State.bufBytes, List.range_add, Nat.add_assoc]

/-- A span depends on its own bytes only. -/
theorem State.bufBytes_ext {s t : State} {b : Buf} {i n : Nat}
    (h : ∀ j, j < n → t.bufByte b (i + j) = s.bufByte b (i + j)) : t.bufBytes b i n = s.bufBytes b i n := by
  simp only [State.bufBytes]
  exact List.map_congr_left (fun j hj => h j (List.mem_range.1 hj))

/-- A byte of a buffer after bytes were stored into a buffer. -/
theorem State.bufByte_storeBytes (s : State) (b b' : Buf) (i j : Nat) (bs : List Byte) :
    (s.storeBytes b i bs).bufByte b' j =
      if b.base + i ≤ b'.base + j ∧ b'.base + j < b.base + i + bs.length
      then bs.getD (b'.base + j - (b.base + i)) 0 else s.bufByte b' j :=
  Memory.read_writeBytes _ _ _ _

/-- A byte of the same buffer after bytes were stored into it. -/
theorem State.bufByte_storeBytes_same (s : State) (b : Buf) (i j : Nat) (bs : List Byte) :
    (s.storeBytes b i bs).bufByte b j =
      if i ≤ j ∧ j < i + bs.length then bs.getD (j - i) 0 else s.bufByte b j := by
  rw [State.bufByte_storeBytes]
  by_cases h : i ≤ j ∧ j < i + bs.length
  · rw [if_pos (by omega), if_pos h]
    congr 1; omega
  · rw [if_neg (by omega), if_neg h]

/-- A store within one window leaves the bytes of the other windows. -/
theorem State.bufByte_storeBytes_other (s : State) {b b' : Buf} (hb : b' ≠ b) {i j : Nat} {bs : List Byte}
    (hi : i + bs.length ≤ 0x20000) (hj : j < 0x20000) : (s.storeBytes b i bs).bufByte b' j = s.bufByte b' j := by
  rw [State.bufByte_storeBytes, if_neg]
  cases b <;> cases b' <;> simp_all [Buf.base] <;> omega

end Sys2Proof.Machine
end

