-- ==== Sys2Proof/Laws/State.lean ====
section
/-! SUPPORT. What each field is after each named update: one lemma per field per update. -/

namespace Sys2Proof.Machine

variable (s : State)

@[simp] theorem State.storeBytes_cfg (b : Buf) (i : Nat) (bs : List Byte) : (s.storeBytes b i bs).cfg = s.cfg := rfl
@[simp] theorem State.storeBytes_cmdLatch (b : Buf) (i : Nat) (bs : List Byte) : (s.storeBytes b i bs).cmdLatch = s.cmdLatch := rfl
@[simp] theorem State.storeBytes_code (b : Buf) (i : Nat) (bs : List Byte) : (s.storeBytes b i bs).code = s.code := rfl
@[simp] theorem State.storeBytes_busy (b : Buf) (i : Nat) (bs : List Byte) : (s.storeBytes b i bs).busy = s.busy := rfl
@[simp] theorem State.storeBytes_werr (b : Buf) (i : Nat) (bs : List Byte) : (s.storeBytes b i bs).werr = s.werr := rfl
@[simp] theorem State.storeBytes_r (b : Buf) (i : Nat) (bs : List Byte) : (s.storeBytes b i bs).r = s.r := rfl
@[simp] theorem State.storeBytes_crcSeed (b : Buf) (i : Nat) (bs : List Byte) : (s.storeBytes b i bs).crcSeed = s.crcSeed := rfl
@[simp] theorem State.storeBytes_crcWord (b : Buf) (i : Nat) (bs : List Byte) : (s.storeBytes b i bs).crcWord = s.crcWord := rfl
@[simp] theorem State.storeBytes_crcSpan (b : Buf) (i : Nat) (bs : List Byte) : (s.storeBytes b i bs).crcSpan = s.crcSpan := rfl
@[simp] theorem State.storeBytes_frmHdr (b : Buf) (i : Nat) (bs : List Byte) : (s.storeBytes b i bs).frmHdr = s.frmHdr := rfl
@[simp] theorem State.storeBytes_txLen (b : Buf) (i : Nat) (bs : List Byte) : (s.storeBytes b i bs).txLen = s.txLen := rfl
@[simp] theorem State.storeBytes_txCrc (b : Buf) (i : Nat) (bs : List Byte) : (s.storeBytes b i bs).txCrc = s.txCrc := rfl
@[simp] theorem State.storeBytes_rxLen (b : Buf) (i : Nat) (bs : List Byte) : (s.storeBytes b i bs).rxLen = s.rxLen := rfl
@[simp] theorem State.storeBytes_rxHdr (b : Buf) (i : Nat) (bs : List Byte) : (s.storeBytes b i bs).rxHdr = s.rxHdr := rfl
@[simp] theorem State.storeBytes_rxCrc (b : Buf) (i : Nat) (bs : List Byte) : (s.storeBytes b i bs).rxCrc = s.rxCrc := rfl
@[simp] theorem State.storeBytes_rxCalc (b : Buf) (i : Nat) (bs : List Byte) : (s.storeBytes b i bs).rxCalc = s.rxCalc := rfl
@[simp] theorem State.storeBytes_rxAck (b : Buf) (i : Nat) (bs : List Byte) : (s.storeBytes b i bs).rxAck = s.rxAck := rfl
@[simp] theorem State.storeBytes_mem (b : Buf) (i : Nat) (bs : List Byte) : (s.storeBytes b i bs).mem = Memory.writeBytes s.mem (b.base + i) bs := rfl
@[simp] theorem State.storeBytes_prog (b : Buf) (i : Nat) (bs : List Byte) : (s.storeBytes b i bs).prog = s.prog := rfl
@[simp] theorem State.storeBytes_sched (b : Buf) (i : Nat) (bs : List Byte) : (s.storeBytes b i bs).sched = s.sched := rfl
@[simp] theorem State.storeBytes_replies (b : Buf) (i : Nat) (bs : List Byte) : (s.storeBytes b i bs).replies = s.replies := rfl

@[simp] theorem State.finish_cfg (c : Code) : (s.finish c).cfg = s.cfg := rfl
@[simp] theorem State.finish_cmdLatch (c : Code) : (s.finish c).cmdLatch = s.cmdLatch := rfl
@[simp] theorem State.finish_code (c : Code) : (s.finish c).code = c := rfl
@[simp] theorem State.finish_busy (c : Code) : (s.finish c).busy = false := rfl
@[simp] theorem State.finish_werr (c : Code) : (s.finish c).werr = s.werr := rfl
@[simp] theorem State.finish_r (c : Code) : (s.finish c).r = s.r := rfl
@[simp] theorem State.finish_crcSeed (c : Code) : (s.finish c).crcSeed = s.crcSeed := rfl
@[simp] theorem State.finish_crcWord (c : Code) : (s.finish c).crcWord = s.crcWord := rfl
@[simp] theorem State.finish_crcSpan (c : Code) : (s.finish c).crcSpan = s.crcSpan := rfl
@[simp] theorem State.finish_frmHdr (c : Code) : (s.finish c).frmHdr = s.frmHdr := rfl
@[simp] theorem State.finish_txLen (c : Code) : (s.finish c).txLen = s.txLen := rfl
@[simp] theorem State.finish_txCrc (c : Code) : (s.finish c).txCrc = s.txCrc := rfl
@[simp] theorem State.finish_rxLen (c : Code) : (s.finish c).rxLen = s.rxLen := rfl
@[simp] theorem State.finish_rxHdr (c : Code) : (s.finish c).rxHdr = s.rxHdr := rfl
@[simp] theorem State.finish_rxCrc (c : Code) : (s.finish c).rxCrc = s.rxCrc := rfl
@[simp] theorem State.finish_rxCalc (c : Code) : (s.finish c).rxCalc = s.rxCalc := rfl
@[simp] theorem State.finish_rxAck (c : Code) : (s.finish c).rxAck = s.rxAck := rfl
@[simp] theorem State.finish_mem (c : Code) : (s.finish c).mem = s.mem := rfl
@[simp] theorem State.finish_prog (c : Code) : (s.finish c).prog = s.prog := rfl
@[simp] theorem State.finish_sched (c : Code) : (s.finish c).sched = s.sched := rfl
@[simp] theorem State.finish_replies (c : Code) : (s.finish c).replies = s.replies := rfl

@[simp] theorem State.setR_cfg (v : Word) : (s.setR v).cfg = s.cfg := rfl
@[simp] theorem State.setR_cmdLatch (v : Word) : (s.setR v).cmdLatch = s.cmdLatch := rfl
@[simp] theorem State.setR_code (v : Word) : (s.setR v).code = s.code := rfl
@[simp] theorem State.setR_busy (v : Word) : (s.setR v).busy = s.busy := rfl
@[simp] theorem State.setR_werr (v : Word) : (s.setR v).werr = s.werr := rfl
@[simp] theorem State.setR_r (v : Word) : (s.setR v).r = v := rfl
@[simp] theorem State.setR_crcSeed (v : Word) : (s.setR v).crcSeed = s.crcSeed := rfl
@[simp] theorem State.setR_crcWord (v : Word) : (s.setR v).crcWord = s.crcWord := rfl
@[simp] theorem State.setR_crcSpan (v : Word) : (s.setR v).crcSpan = s.crcSpan := rfl
@[simp] theorem State.setR_frmHdr (v : Word) : (s.setR v).frmHdr = s.frmHdr := rfl
@[simp] theorem State.setR_txLen (v : Word) : (s.setR v).txLen = s.txLen := rfl
@[simp] theorem State.setR_txCrc (v : Word) : (s.setR v).txCrc = s.txCrc := rfl
@[simp] theorem State.setR_rxLen (v : Word) : (s.setR v).rxLen = s.rxLen := rfl
@[simp] theorem State.setR_rxHdr (v : Word) : (s.setR v).rxHdr = s.rxHdr := rfl
@[simp] theorem State.setR_rxCrc (v : Word) : (s.setR v).rxCrc = s.rxCrc := rfl
@[simp] theorem State.setR_rxCalc (v : Word) : (s.setR v).rxCalc = s.rxCalc := rfl
@[simp] theorem State.setR_rxAck (v : Word) : (s.setR v).rxAck = s.rxAck := rfl
@[simp] theorem State.setR_mem (v : Word) : (s.setR v).mem = s.mem := rfl
@[simp] theorem State.setR_prog (v : Word) : (s.setR v).prog = s.prog := rfl
@[simp] theorem State.setR_sched (v : Word) : (s.setR v).sched = s.sched := rfl
@[simp] theorem State.setR_replies (v : Word) : (s.setR v).replies = s.replies := rfl

@[simp] theorem State.putFrame_cfg (f : List Byte) (crc : Word) : (s.putFrame f crc).cfg = s.cfg := rfl
@[simp] theorem State.putFrame_cmdLatch (f : List Byte) (crc : Word) : (s.putFrame f crc).cmdLatch = s.cmdLatch := rfl
@[simp] theorem State.putFrame_code (f : List Byte) (crc : Word) : (s.putFrame f crc).code = s.code := rfl
@[simp] theorem State.putFrame_busy (f : List Byte) (crc : Word) : (s.putFrame f crc).busy = s.busy := rfl
@[simp] theorem State.putFrame_werr (f : List Byte) (crc : Word) : (s.putFrame f crc).werr = s.werr := rfl
@[simp] theorem State.putFrame_r (f : List Byte) (crc : Word) : (s.putFrame f crc).r = s.r := rfl
@[simp] theorem State.putFrame_crcSeed (f : List Byte) (crc : Word) : (s.putFrame f crc).crcSeed = s.crcSeed := rfl
@[simp] theorem State.putFrame_crcWord (f : List Byte) (crc : Word) : (s.putFrame f crc).crcWord = s.crcWord := rfl
@[simp] theorem State.putFrame_crcSpan (f : List Byte) (crc : Word) : (s.putFrame f crc).crcSpan = s.crcSpan := rfl
@[simp] theorem State.putFrame_frmHdr (f : List Byte) (crc : Word) : (s.putFrame f crc).frmHdr = s.frmHdr := rfl
@[simp] theorem State.putFrame_txLen (f : List Byte) (crc : Word) : (s.putFrame f crc).txLen = BitVec.ofNat 17 f.length := rfl
@[simp] theorem State.putFrame_txCrc (f : List Byte) (crc : Word) : (s.putFrame f crc).txCrc = crc := rfl
@[simp] theorem State.putFrame_rxLen (f : List Byte) (crc : Word) : (s.putFrame f crc).rxLen = s.rxLen := rfl
@[simp] theorem State.putFrame_rxHdr (f : List Byte) (crc : Word) : (s.putFrame f crc).rxHdr = s.rxHdr := rfl
@[simp] theorem State.putFrame_rxCrc (f : List Byte) (crc : Word) : (s.putFrame f crc).rxCrc = s.rxCrc := rfl
@[simp] theorem State.putFrame_rxCalc (f : List Byte) (crc : Word) : (s.putFrame f crc).rxCalc = s.rxCalc := rfl
@[simp] theorem State.putFrame_rxAck (f : List Byte) (crc : Word) : (s.putFrame f crc).rxAck = s.rxAck := rfl
@[simp] theorem State.putFrame_mem (f : List Byte) (crc : Word) : (s.putFrame f crc).mem = Memory.writeBytes s.mem (Buf.txbuf.base + 0) f := rfl
@[simp] theorem State.putFrame_prog (f : List Byte) (crc : Word) : (s.putFrame f crc).prog = s.prog := rfl
@[simp] theorem State.putFrame_sched (f : List Byte) (crc : Word) : (s.putFrame f crc).sched = s.sched := rfl
@[simp] theorem State.putFrame_replies (f : List Byte) (crc : Word) : (s.putFrame f crc).replies = s.replies := rfl

@[simp] theorem State.setRxCrcs_cfg (recv own : Word) : (s.setRxCrcs recv own).cfg = s.cfg := rfl
@[simp] theorem State.setRxCrcs_cmdLatch (recv own : Word) : (s.setRxCrcs recv own).cmdLatch = s.cmdLatch := rfl
@[simp] theorem State.setRxCrcs_code (recv own : Word) : (s.setRxCrcs recv own).code = s.code := rfl
@[simp] theorem State.setRxCrcs_busy (recv own : Word) : (s.setRxCrcs recv own).busy = s.busy := rfl
@[simp] theorem State.setRxCrcs_werr (recv own : Word) : (s.setRxCrcs recv own).werr = s.werr := rfl
@[simp] theorem State.setRxCrcs_r (recv own : Word) : (s.setRxCrcs recv own).r = s.r := rfl
@[simp] theorem State.setRxCrcs_crcSeed (recv own : Word) : (s.setRxCrcs recv own).crcSeed = s.crcSeed := rfl
@[simp] theorem State.setRxCrcs_crcWord (recv own : Word) : (s.setRxCrcs recv own).crcWord = s.crcWord := rfl
@[simp] theorem State.setRxCrcs_crcSpan (recv own : Word) : (s.setRxCrcs recv own).crcSpan = s.crcSpan := rfl
@[simp] theorem State.setRxCrcs_frmHdr (recv own : Word) : (s.setRxCrcs recv own).frmHdr = s.frmHdr := rfl
@[simp] theorem State.setRxCrcs_txLen (recv own : Word) : (s.setRxCrcs recv own).txLen = s.txLen := rfl
@[simp] theorem State.setRxCrcs_txCrc (recv own : Word) : (s.setRxCrcs recv own).txCrc = s.txCrc := rfl
@[simp] theorem State.setRxCrcs_rxLen (recv own : Word) : (s.setRxCrcs recv own).rxLen = s.rxLen := rfl
@[simp] theorem State.setRxCrcs_rxHdr (recv own : Word) : (s.setRxCrcs recv own).rxHdr = s.rxHdr := rfl
@[simp] theorem State.setRxCrcs_rxCrc (recv own : Word) : (s.setRxCrcs recv own).rxCrc = recv := rfl
@[simp] theorem State.setRxCrcs_rxCalc (recv own : Word) : (s.setRxCrcs recv own).rxCalc = own := rfl
@[simp] theorem State.setRxCrcs_rxAck (recv own : Word) : (s.setRxCrcs recv own).rxAck = s.rxAck := rfl
@[simp] theorem State.setRxCrcs_mem (recv own : Word) : (s.setRxCrcs recv own).mem = s.mem := rfl
@[simp] theorem State.setRxCrcs_prog (recv own : Word) : (s.setRxCrcs recv own).prog = s.prog := rfl
@[simp] theorem State.setRxCrcs_sched (recv own : Word) : (s.setRxCrcs recv own).sched = s.sched := rfl
@[simp] theorem State.setRxCrcs_replies (recv own : Word) : (s.setRxCrcs recv own).replies = s.replies := rfl

@[simp] theorem State.setRxFrame_cfg (hdr ack : Word) : (s.setRxFrame hdr ack).cfg = s.cfg := rfl
@[simp] theorem State.setRxFrame_cmdLatch (hdr ack : Word) : (s.setRxFrame hdr ack).cmdLatch = s.cmdLatch := rfl
@[simp] theorem State.setRxFrame_code (hdr ack : Word) : (s.setRxFrame hdr ack).code = s.code := rfl
@[simp] theorem State.setRxFrame_busy (hdr ack : Word) : (s.setRxFrame hdr ack).busy = s.busy := rfl
@[simp] theorem State.setRxFrame_werr (hdr ack : Word) : (s.setRxFrame hdr ack).werr = s.werr := rfl
@[simp] theorem State.setRxFrame_r (hdr ack : Word) : (s.setRxFrame hdr ack).r = s.r := rfl
@[simp] theorem State.setRxFrame_crcSeed (hdr ack : Word) : (s.setRxFrame hdr ack).crcSeed = s.crcSeed := rfl
@[simp] theorem State.setRxFrame_crcWord (hdr ack : Word) : (s.setRxFrame hdr ack).crcWord = s.crcWord := rfl
@[simp] theorem State.setRxFrame_crcSpan (hdr ack : Word) : (s.setRxFrame hdr ack).crcSpan = s.crcSpan := rfl
@[simp] theorem State.setRxFrame_frmHdr (hdr ack : Word) : (s.setRxFrame hdr ack).frmHdr = s.frmHdr := rfl
@[simp] theorem State.setRxFrame_txLen (hdr ack : Word) : (s.setRxFrame hdr ack).txLen = s.txLen := rfl
@[simp] theorem State.setRxFrame_txCrc (hdr ack : Word) : (s.setRxFrame hdr ack).txCrc = s.txCrc := rfl
@[simp] theorem State.setRxFrame_rxLen (hdr ack : Word) : (s.setRxFrame hdr ack).rxLen = s.rxLen := rfl
@[simp] theorem State.setRxFrame_rxHdr (hdr ack : Word) : (s.setRxFrame hdr ack).rxHdr = hdr := rfl
@[simp] theorem State.setRxFrame_rxCrc (hdr ack : Word) : (s.setRxFrame hdr ack).rxCrc = s.rxCrc := rfl
@[simp] theorem State.setRxFrame_rxCalc (hdr ack : Word) : (s.setRxFrame hdr ack).rxCalc = s.rxCalc := rfl
@[simp] theorem State.setRxFrame_rxAck (hdr ack : Word) : (s.setRxFrame hdr ack).rxAck = ack := rfl
@[simp] theorem State.setRxFrame_mem (hdr ack : Word) : (s.setRxFrame hdr ack).mem = s.mem := rfl
@[simp] theorem State.setRxFrame_prog (hdr ack : Word) : (s.setRxFrame hdr ack).prog = s.prog := rfl
@[simp] theorem State.setRxFrame_sched (hdr ack : Word) : (s.setRxFrame hdr ack).sched = s.sched := rfl
@[simp] theorem State.setRxFrame_replies (hdr ack : Word) : (s.setRxFrame hdr ack).replies = s.replies := rfl

@[simp] theorem State.flagWriteError_cfg : (s.flagWriteError).cfg = s.cfg := rfl
@[simp] theorem State.flagWriteError_cmdLatch : (s.flagWriteError).cmdLatch = s.cmdLatch := rfl
@[simp] theorem State.flagWriteError_code : (s.flagWriteError).code = s.code := rfl
@[simp] theorem State.flagWriteError_busy : (s.flagWriteError).busy = s.busy := rfl
@[simp] theorem State.flagWriteError_werr : (s.flagWriteError).werr = true := rfl
@[simp] theorem State.flagWriteError_r : (s.flagWriteError).r = s.r := rfl
@[simp] theorem State.flagWriteError_crcSeed : (s.flagWriteError).crcSeed = s.crcSeed := rfl
@[simp] theorem State.flagWriteError_crcWord : (s.flagWriteError).crcWord = s.crcWord := rfl
@[simp] theorem State.flagWriteError_crcSpan : (s.flagWriteError).crcSpan = s.crcSpan := rfl
@[simp] theorem State.flagWriteError_frmHdr : (s.flagWriteError).frmHdr = s.frmHdr := rfl
@[simp] theorem State.flagWriteError_txLen : (s.flagWriteError).txLen = s.txLen := rfl
@[simp] theorem State.flagWriteError_txCrc : (s.flagWriteError).txCrc = s.txCrc := rfl
@[simp] theorem State.flagWriteError_rxLen : (s.flagWriteError).rxLen = s.rxLen := rfl
@[simp] theorem State.flagWriteError_rxHdr : (s.flagWriteError).rxHdr = s.rxHdr := rfl
@[simp] theorem State.flagWriteError_rxCrc : (s.flagWriteError).rxCrc = s.rxCrc := rfl
@[simp] theorem State.flagWriteError_rxCalc : (s.flagWriteError).rxCalc = s.rxCalc := rfl
@[simp] theorem State.flagWriteError_rxAck : (s.flagWriteError).rxAck = s.rxAck := rfl
@[simp] theorem State.flagWriteError_mem : (s.flagWriteError).mem = s.mem := rfl
@[simp] theorem State.flagWriteError_prog : (s.flagWriteError).prog = s.prog := rfl
@[simp] theorem State.flagWriteError_sched : (s.flagWriteError).sched = s.sched := rfl
@[simp] theorem State.flagWriteError_replies : (s.flagWriteError).replies = s.replies := rfl

@[simp] theorem State.reply_cfg (v : Word) : (s.reply v).cfg = s.cfg := rfl
@[simp] theorem State.reply_cmdLatch (v : Word) : (s.reply v).cmdLatch = s.cmdLatch := rfl
@[simp] theorem State.reply_code (v : Word) : (s.reply v).code = s.code := rfl
@[simp] theorem State.reply_busy (v : Word) : (s.reply v).busy = s.busy := rfl
@[simp] theorem State.reply_werr (v : Word) : (s.reply v).werr = s.werr := rfl
@[simp] theorem State.reply_r (v : Word) : (s.reply v).r = s.r := rfl
@[simp] theorem State.reply_crcSeed (v : Word) : (s.reply v).crcSeed = s.crcSeed := rfl
@[simp] theorem State.reply_crcWord (v : Word) : (s.reply v).crcWord = s.crcWord := rfl
@[simp] theorem State.reply_crcSpan (v : Word) : (s.reply v).crcSpan = s.crcSpan := rfl
@[simp] theorem State.reply_frmHdr (v : Word) : (s.reply v).frmHdr = s.frmHdr := rfl
@[simp] theorem State.reply_txLen (v : Word) : (s.reply v).txLen = s.txLen := rfl
@[simp] theorem State.reply_txCrc (v : Word) : (s.reply v).txCrc = s.txCrc := rfl
@[simp] theorem State.reply_rxLen (v : Word) : (s.reply v).rxLen = s.rxLen := rfl
@[simp] theorem State.reply_rxHdr (v : Word) : (s.reply v).rxHdr = s.rxHdr := rfl
@[simp] theorem State.reply_rxCrc (v : Word) : (s.reply v).rxCrc = s.rxCrc := rfl
@[simp] theorem State.reply_rxCalc (v : Word) : (s.reply v).rxCalc = s.rxCalc := rfl
@[simp] theorem State.reply_rxAck (v : Word) : (s.reply v).rxAck = s.rxAck := rfl
@[simp] theorem State.reply_mem (v : Word) : (s.reply v).mem = s.mem := rfl
@[simp] theorem State.reply_prog (v : Word) : (s.reply v).prog = s.prog := rfl
@[simp] theorem State.reply_sched (v : Word) : (s.reply v).sched = s.sched := rfl
@[simp] theorem State.reply_replies (v : Word) : (s.reply v).replies = v :: s.replies := rfl

@[simp] theorem State.latch_cfg (nbits w : Nat) : (s.latch nbits w).cfg = s.cfg := rfl
@[simp] theorem State.latch_cmdLatch (nbits w : Nat) : (s.latch nbits w).cmdLatch = BitVec.ofNat 32 (w % 2 ^ nbits) := rfl
@[simp] theorem State.latch_code (nbits w : Nat) : (s.latch nbits w).code = s.code := rfl
@[simp] theorem State.latch_busy (nbits w : Nat) : (s.latch nbits w).busy = true := rfl
@[simp] theorem State.latch_werr (nbits w : Nat) : (s.latch nbits w).werr = s.werr := rfl
@[simp] theorem State.latch_r (nbits w : Nat) : (s.latch nbits w).r = s.r := rfl
@[simp] theorem State.latch_crcSeed (nbits w : Nat) : (s.latch nbits w).crcSeed = s.crcSeed := rfl
@[simp] theorem State.latch_crcWord (nbits w : Nat) : (s.latch nbits w).crcWord = s.crcWord := rfl
@[simp] theorem State.latch_crcSpan (nbits w : Nat) : (s.latch nbits w).crcSpan = s.crcSpan := rfl
@[simp] theorem State.latch_frmHdr (nbits w : Nat) : (s.latch nbits w).frmHdr = s.frmHdr := rfl
@[simp] theorem State.latch_txLen (nbits w : Nat) : (s.latch nbits w).txLen = s.txLen := rfl
@[simp] theorem State.latch_txCrc (nbits w : Nat) : (s.latch nbits w).txCrc = s.txCrc := rfl
@[simp] theorem State.latch_rxLen (nbits w : Nat) : (s.latch nbits w).rxLen = s.rxLen := rfl
@[simp] theorem State.latch_rxHdr (nbits w : Nat) : (s.latch nbits w).rxHdr = s.rxHdr := rfl
@[simp] theorem State.latch_rxCrc (nbits w : Nat) : (s.latch nbits w).rxCrc = s.rxCrc := rfl
@[simp] theorem State.latch_rxCalc (nbits w : Nat) : (s.latch nbits w).rxCalc = s.rxCalc := rfl
@[simp] theorem State.latch_rxAck (nbits w : Nat) : (s.latch nbits w).rxAck = s.rxAck := rfl
@[simp] theorem State.latch_mem (nbits w : Nat) : (s.latch nbits w).mem = s.mem := rfl
@[simp] theorem State.latch_prog (nbits w : Nat) : (s.latch nbits w).prog = s.prog := rfl
@[simp] theorem State.latch_sched (nbits w : Nat) : (s.latch nbits w).sched = s.sched := rfl
@[simp] theorem State.latch_replies (nbits w : Nat) : (s.latch nbits w).replies = s.replies := rfl

/-- A byte of a buffer depends on memory alone. -/
theorem State.bufByte_congr {s t : State} (h : t.mem = s.mem) (b : Buf) (i : Nat) : t.bufByte b i = s.bufByte b i := by
  simp [State.bufByte, h]

/-- So does a span of a buffer. -/
theorem State.bufBytes_congr {s t : State} (h : t.mem = s.mem) (b : Buf) (i n : Nat) :
    t.bufBytes b i n = s.bufBytes b i n := by
  simp [State.bufBytes, State.bufByte, h]

end Sys2Proof.Machine
end

