-- ==== Sys2Proof/Laws/Bus.lean ====
section
/-! SUPPORT. The bus: what a target is, what a write can change, and what one step can be. -/

namespace Sys2Proof.Machine

@[simp] theorem Reg.ofOffset_offset (r : Reg) : Reg.ofOffset r.offset = some r := by cases r <;> rfl

theorem Reg.offset_of_ofOffset {off : Nat} {r : Reg} (h : Reg.ofOffset off = some r) : r.offset = off := by
  have := List.find?_some h
  simpa using this

theorem Reg.offset_le (r : Reg) : r.offset ≤ 0x38 := by cases r <;> decide

theorem Reg.offset_aligned (r : Reg) : r.offset % 4 = 0 := by cases r <;> rfl

theorem Reg.ofOffset_of_aligned {off : Nat} (h : off % 4 = 0) (hle : off ≤ 0x38) : ∃ r, Reg.ofOffset off = some r := by
  obtain ⟨k, rfl⟩ : ∃ k, off = 4 * k := ⟨off / 4, by omega⟩
  have : k ≤ 14 := by omega
  interval_cases k <;> exact ⟨_, rfl⟩

theorem Buf.base_ofOffset_le {off : Nat} (h : Buf.pbuf.base ≤ off) : (Buf.ofOffset off).base ≤ off := by
  unfold Buf.ofOffset
  split
  · exact h
  · split
    · exact Nat.le_of_not_lt ‹_›
    · exact Nat.le_of_not_lt ‹_›

/-- What a valid access reaches: an aligned word, at a register's offset or inside a buffer. -/
theorem busTarget_ok {c : Config} {size off : Nat} {t : Target} (h : busTarget c size off = .ok t) :
    size = 4 ∧ off % 4 = 0 ∧ t.offset = off ∧ ∀ b k, t = .buf b k → k < b.capacity c := by
  unfold busTarget at h
  split at h
  · cases h
  · split at h
    · cases h
    · split at h
      · split at h
        · cases h
          exact ⟨by omega, by omega, Reg.offset_of_ofOffset ‹_›, fun b k hb => nomatch hb⟩
        · cases h
      · split at h
        · rename_i h1 h2 h3 h4
          cases h
          refine ⟨by omega, by omega, ?_, fun b k hb => by cases hb; exact h4⟩
          have := Buf.base_ofOffset_le (Nat.le_of_not_lt h3)
          simp only [Target.offset]; omega
        · cases h

/-- A register's offset is a valid access to it. -/
theorem busTarget_reg (c : Config) (r : Reg) : busTarget c 4 r.offset = .ok (.reg r) := by
  cases r <;> rfl

/-- A word inside a buffer is a valid access to it. -/
theorem busTarget_buf (c : Config) (b : Buf) {k : Nat} (hk : k % 4 = 0) (hc : k < b.capacity c) (hw : k < 0x20000) :
    busTarget c 4 (b.base + k) = .ok (.buf b k) := by
  have hb : Buf.ofOffset (b.base + k) = b := by
    unfold Buf.ofOffset
    cases b
    · rw [if_pos (by simp only [Buf.base]; omega)]
    · rw [if_neg (by simp only [Buf.base]; omega), if_pos (by simp only [Buf.base]; omega)]
    · rw [if_neg (by simp only [Buf.base]; omega), if_neg (by simp only [Buf.base]; omega)]
  unfold busTarget
  have ha : (b.base + k) % 4 = 0 := by cases b <;> simp only [Buf.base] <;> omega
  rw [if_neg (by simp), if_neg (by simp [ha]),
    if_neg (by cases b <;> simp only [Buf.base] <;> omega), hb, Nat.add_sub_cancel_left, if_pos hc]

/-- An offset the FCE decodes is its bus address's offset. -/
theorem Config.offset_base_add (c : Config) {off : Nat} (h : off < fceSpan) : Config.offset? c (c.base + off) = some off := by
  simp [Config.offset?, h]

theorem writeTarget_busy {s : State} (h : s.busy = true) (t : Target) (v : Word) :
    s.writeTarget t v = s.flagWriteError := by
  unfold State.writeTarget; rw [if_pos h]

theorem writeTarget_idle {s : State} (h : s.busy = false) (t : Target) (v : Word) :
    s.writeTarget t v = s.writeIdle t v := by
  unfold State.writeTarget; rw [if_neg (by simp [h])]

/-- Everything a valid write can leave. -/
theorem writeTarget_cases (s : State) (t : Target) (v : Word) :
    (s.busy = true ∧ s.writeTarget t v = s.flagWriteError) ∨
    (s.busy = false ∧ ∃ r, t = .reg r ∧ s.writeTarget t v = s.writeReg r v) ∨
    (s.busy = false ∧ (∃ k, t = .buf .txbuf k) ∧ s.writeTarget t v = s) ∨
    (s.busy = false ∧ ∃ b k, b ≠ .txbuf ∧ t = .buf b k ∧ s.writeTarget t v = s.writeWindow b k v) := by
  unfold State.writeTarget
  cases hb : s.busy with
  | true => exact .inl ⟨rfl, rfl⟩
  | false =>
    rcases t with r | ⟨_ | _ | _, k⟩
    · exact .inr (.inl ⟨rfl, r, rfl, rfl⟩)
    · exact .inr (.inr (.inr ⟨rfl, _, k, by simp, rfl, rfl⟩))
    · exact .inr (.inr (.inl ⟨rfl, ⟨k, rfl⟩, rfl⟩))
    · exact .inr (.inr (.inr ⟨rfl, _, k, by simp, rfl, rfl⟩))

/-- A bus write moves none of the model's own fields, and no parameter. -/
theorem writeTarget_environment (s : State) (t : Target) (v : Word) :
    (s.writeTarget t v).cfg = s.cfg ∧ (s.writeTarget t v).prog = s.prog ∧
      (s.writeTarget t v).sched = s.sched ∧ (s.writeTarget t v).replies = s.replies := by
  rcases writeTarget_cases s t v with ⟨-, h⟩ | ⟨-, r, -, h⟩ | ⟨-, -, h⟩ | ⟨-, b, k, -, -, h⟩ <;> rw [h]
  · simp
  · cases r <;> simp [State.writeReg, State.writeStatus]
    split <;> simp
  · simp
  · simp [State.writeWindow]

/-- A HOST access that goes on: a read that records its word, a write of a valid target, or a POLL. -/
theorem hostAccess_cases {op : HostOp} {s t : State} (h : hostAccess op s = .next t) :
    (∃ size off g, op = .read size (s.cfg.base + off) ∧ busTarget s.cfg size off = .ok g ∧
      t = s.reply (s.readTarget g)) ∨
    (∃ size off v g, op = .write size (s.cfg.base + off) v ∧ busTarget s.cfg size off = .ok g ∧
      t = s.writeTarget g v) ∨
    (op = .poll ∧ (t = s.reply (s.readTarget (.reg .status)) ∨
      t = { s.reply (s.readTarget (.reg .status)) with prog := .poll :: s.prog })) := by
  cases op with
  | read size addr =>
    simp only [hostAccess, Config.offset?, busFault, State.busRead] at h
    by_cases ha : s.cfg.base ≤ addr ∧ addr < s.cfg.base + fceSpan
    · rw [if_pos ha] at h
      cases hg : busTarget s.cfg size (addr - s.cfg.base) with
      | error f => simp [hg] at h
      | ok g =>
        simp only [hg, Host.Outcome.next.injEq] at h
        exact .inl ⟨size, addr - s.cfg.base, g, by congr 1; omega, hg, h.symm⟩
    · rw [if_neg ha] at h; simp at h
  | write size addr v =>
    simp only [hostAccess, Config.offset?, busFault, State.busWrite] at h
    by_cases ha : s.cfg.base ≤ addr ∧ addr < s.cfg.base + fceSpan
    · rw [if_pos ha] at h
      cases hg : busTarget s.cfg size (addr - s.cfg.base) with
      | error f => simp [hg] at h
      | ok g =>
        simp only [hg, Host.Outcome.next.injEq] at h
        exact .inr (.inl ⟨size, addr - s.cfg.base, v, g, by congr 1; omega, hg, h.symm⟩)
    · rw [if_neg ha] at h; simp at h
  | poll =>
    simp only [hostAccess] at h
    split at h <;> cases h
    · exact .inr (.inr ⟨rfl, .inr rfl⟩)
    · exact .inr (.inr ⟨rfl, .inl rfl⟩)

/-- The HOST's next access is what the step does. -/
theorem step_host {s : State} {op : HostOp} {rest : List HostOp} {more : List Turn} (h : s.hostNext op rest more) :
    step s = hostAccess op (s.pop rest more) := by
  obtain ⟨hp, hs | ⟨hs, hb, rfl⟩⟩ := h
  · unfold step; rw [hs]; unfold hostStep
    show (match s.prog with | [] => _ | op :: rest => _) = _
    rw [hp]; rfl
  · unfold step; rw [hs]
    refine (if_neg (by rw [hb]; decide)).trans ?_
    unfold hostStep; rw [hp]; unfold State.pop; rw [← hs]

/-- The ENGINE's step is what the step does, for every latched word. -/
theorem step_engine {s : State} {more : List Turn} (h : s.engineNext more) :
    step s = engineStep { s with sched := more } := by
  obtain ⟨hb, hs | ⟨hs, rfl⟩⟩ := h
  · unfold step; rw [hs]; exact if_pos hb
  · unfold step; rw [hs]
    refine (if_pos hb).trans ?_
    rw [← hs]

/-- Everything one step can be, when it goes on: the HOST's access, the ENGINE's step, a reset, or a turn
with nothing to do. -/
theorem step_cases {s t : State} (h : step s = .next t) :
    (∃ more op rest, s.hostNext op rest more ∧ hostAccess op (s.pop rest more) = .next t) ∨
    (∃ more, s.engineNext more ∧ engineStep { s with sched := more } = .next t) ∨
    (∃ more d, s.sched = .reset d :: more ∧ t = State.afterReset d { s with sched := more }) ∨
    (∃ more, t = { s with sched := more }) := by
  match hs : s.sched with
  | .host :: more =>
    match hp : s.prog with
    | op :: rest =>
      have hn : s.hostNext op rest more := ⟨hp, .inl hs⟩
      exact .inl ⟨more, op, rest, hn, (step_host hn).symm.trans h⟩
    | [] =>
      unfold step at h; rw [hs] at h; unfold hostStep at h
      simp only [hp, Host.Outcome.next.injEq] at h
      exact .inr (.inr (.inr ⟨more, h.symm⟩))
  | .engine :: more =>
    cases hb : s.busy with
    | true =>
      have hn : s.engineNext more := ⟨hb, .inl hs⟩
      exact .inr (.inl ⟨more, hn, (step_engine hn).symm.trans h⟩)
    | false =>
      unfold step at h; rw [hs] at h; unfold engineTurn at h
      simp only [hb, Bool.false_eq_true, if_false, Host.Outcome.next.injEq] at h
      exact .inr (.inr (.inr ⟨more, h.symm⟩))
  | .reset d :: more =>
    unfold step at h; rw [hs] at h
    cases h
    exact .inr (.inr (.inl ⟨more, d, rfl, rfl⟩))
  | [] =>
    cases hb : s.busy with
    | true =>
      have hn : s.engineNext [] := ⟨hb, .inr ⟨hs, rfl⟩⟩
      exact .inr (.inl ⟨[], hn, (step_engine hn).symm.trans h⟩)
    | false =>
      match hp : s.prog with
      | op :: rest =>
        have hn : s.hostNext op rest [] := ⟨hp, .inr ⟨hs, hb, rfl⟩⟩
        exact .inl ⟨[], op, rest, hn, (step_host hn).symm.trans h⟩
      | [] =>
        unfold step at h; rw [hs] at h; unfold hostStep at h
        simp only [hb, hp, Bool.false_eq_true, if_false, Host.Outcome.next.injEq] at h
        exact .inr (.inr (.inr ⟨[], by rw [← h]; cases s; simp_all⟩))

end Sys2Proof.Machine
end

