-- ==== Sys2Proof/Laws/Crc.lean ====
section
/-! SUPPORT. The CRC step loses nothing: it is injective in the register and in the byte. -/

namespace Sys2Proof.Machine

@[simp] theorem crcFold_nil (r : Word) : crcFold r [] = r := rfl

@[simp] theorem crcFold_cons (r : Word) (b : Byte) (s : List Byte) :
    crcFold r (b :: s) = crcFold (crcStep r b) s := rfl

theorem crcTable_length : crcTable.length = 256 := by decide +kernel

/-- Which entry has which top byte. -/
def crcTopIndex : List Nat :=
  [0, 65, 195, 130, 134, 199, 69, 4, 77, 12, 142, 207, 203, 138, 8, 73, 154, 219, 89, 24, 28, 93, 223, 158, 215, 150, 20, 85, 81, 16, 146, 211] ++
  [117, 52, 182, 247, 243, 178, 48, 113, 56, 121, 251, 186, 190, 255, 125, 60, 239, 174, 44, 109, 105, 40, 170, 235, 162, 227, 97, 32, 36, 101, 231, 166] ++
  [234, 171, 41, 104, 108, 45, 175, 238, 167, 230, 100, 37, 33, 96, 226, 163, 112, 49, 179, 242, 246, 183, 53, 116, 61, 124, 254, 191, 187, 250, 120, 57] ++
  [159, 222, 92, 29, 25, 88, 218, 155, 210, 147, 17, 80, 84, 21, 151, 214, 5, 68, 198, 135, 131, 194, 64, 1, 72, 9, 139, 202, 206, 143, 13, 76] ++
  [149, 212, 86, 23, 19, 82, 208, 145, 216, 153, 27, 90, 94, 31, 157, 220, 15, 78, 204, 141, 137, 200, 74, 11, 66, 3, 129, 192, 196, 133, 7, 70] ++
  [224, 161, 35, 98, 102, 39, 165, 228, 173, 236, 110, 47, 43, 106, 232, 169, 122, 59, 185, 248, 252, 189, 63, 126, 55, 118, 244, 181, 177, 240, 114, 51] ++
  [127, 62, 188, 253, 249, 184, 58, 123, 50, 115, 241, 176, 180, 245, 119, 54, 229, 164, 38, 103, 99, 34, 160, 225, 168, 233, 107, 42, 46, 111, 237, 172] ++
  [10, 75, 201, 136, 140, 205, 79, 14, 71, 6, 132, 197, 193, 128, 2, 67, 144, 209, 83, 18, 22, 87, 213, 148, 221, 156, 30, 95, 91, 26, 152, 217]

theorem crcTopIndex_top : crcTable.map (fun e : Word => crcTopIndex.getD (e >>> 24).toNat 0) = List.range 256 := by
  decide +kernel

/-- The table index a step uses. -/
def crcIndex (r : Word) (b : Byte) : Nat := ((r ^^^ b.setWidth 32) &&& 0xFF).toNat

theorem crcIndex_lt (r : Word) (b : Byte) : crcIndex r b < 256 := by
  unfold crcIndex
  rw [BitVec.toNat_and]
  exact Nat.lt_of_le_of_lt Nat.and_le_right (by decide)

theorem crcStep_eq (r : Word) (b : Byte) : crcStep r b = crcTable.getD (crcIndex r b) 0 ^^^ (r >>> 8) := rfl

/-- The index is the low byte of the register against the input byte. -/
theorem crcIndex_eq (r : Word) (b : Byte) : crcIndex r b = (r.setWidth 8 ^^^ b).toNat := by
  have : (r ^^^ b.setWidth 32) &&& 0xFF = ((r.setWidth 8 ^^^ b).setWidth 32 : Word) := by
    apply BitVec.eq_of_getLsbD_eq
    intro i hi
    have h0 : (0xFF : Word).getLsbD i = decide (i < 8) := by interval_cases i <;> rfl
    rw [BitVec.getLsbD_and, h0]
    by_cases h : i < 8
    · simp [h, hi]
    · simp [h, BitVec.getLsbD_of_ge b i (by omega)]
  rw [crcIndex, this, BitVec.toNat_setWidth]
  exact Nat.mod_eq_of_lt (Nat.lt_of_lt_of_le (BitVec.isLt _) (by decide))

theorem crcTopIndex_entry {i : Nat} (hi : i < 256) : crcTopIndex.getD (crcTable.getD i 0 >>> 24).toNat 0 = i := by
  have hl : i < crcTable.length := by rw [crcTable_length]; exact hi
  have := congrArg (fun l : List Nat => l.getD i 0) crcTopIndex_top
  simpa [List.getD_eq_getElem?_getD, List.getElem?_eq_getElem hl, hi] using this

/-- No two table entries share their top byte. -/
theorem crcTable_top_inj {i j : Nat} (hi : i < 256) (hj : j < 256)
    (h : crcTable.getD i 0 >>> 24 = crcTable.getD j 0 >>> 24) : i = j := by
  rw [← crcTopIndex_entry hi, ← crcTopIndex_entry hj, h]

/-- The top byte of a step's result names the table entry used. -/
theorem crcStep_top (r : Word) (b : Byte) : crcStep r b >>> 24 = crcTable.getD (crcIndex r b) 0 >>> 24 := by
  rw [crcStep_eq]
  apply BitVec.eq_of_getLsbD_eq
  intro i hi
  simp only [BitVec.getLsbD_ushiftRight, BitVec.getLsbD_xor]
  rw [BitVec.getLsbD_of_ge r (8 + (24 + i)) (by omega)]
  simp

/-- Two steps that give the same register used the same table entry and shifted out of the same bits. -/
theorem crcStep_eq_cases {r r' : Word} {b b' : Byte} (h : crcStep r b = crcStep r' b') :
    r.setWidth 8 ^^^ b = r'.setWidth 8 ^^^ b' ∧ r >>> 8 = r' >>> 8 := by
  have hidx : crcIndex r b = crcIndex r' b' :=
    crcTable_top_inj (crcIndex_lt r b) (crcIndex_lt r' b') (by rw [← crcStep_top, ← crcStep_top, h])
  refine ⟨?_, ?_⟩
  · rw [crcIndex_eq, crcIndex_eq] at hidx
    exact BitVec.eq_of_toNat_eq hidx
  · rw [crcStep_eq, crcStep_eq, hidx] at h
    exact (BitVec.xor_right_inj _).1 h

/-- For one input byte, different registers stay different. -/
theorem crcStep_injective_register {r r' : Word} {b : Byte} (h : crcStep r b = crcStep r' b) : r = r' := by
  obtain ⟨h1, h2⟩ := crcStep_eq_cases h
  have hlow : r.setWidth 8 = r'.setWidth 8 := (BitVec.xor_left_inj b).1 h1
  apply BitVec.eq_of_getLsbD_eq
  intro i hi
  by_cases h8 : i < 8
  · have := congrArg (fun v => v.getLsbD i) hlow
    simpa [h8] using this
  · have := congrArg (fun v => v.getLsbD (i - 8)) h2
    simpa [(by omega : 8 + (i - 8) = i)] using this

/-- From one register, different input bytes give different registers. -/
theorem crcStep_injective_byte {r : Word} {b b' : Byte} (h : crcStep r b = crcStep r b') : b = b' :=
  (BitVec.xor_right_inj _).1 (crcStep_eq_cases h).1

/-- So different registers stay different over any data. -/
theorem crcFold_injective_register {r r' : Word} {s : List Byte} (h : crcFold r s = crcFold r' s) : r = r' := by
  induction s generalizing r r' with
  | nil => exact h
  | cons b s ih => exact crcStep_injective_register (ih h)

end Sys2Proof.Machine
end

