-- ==== Sys2Proof/Laws/Exec.lean ====
section
/-! SUPPORT. What a command can do: one inversion lemma per meaning, and one for `exec`. -/

namespace Sys2Proof.Machine

/-- Payload byte i of a frame of N bytes is byte 5 + i, if it lies below the CRC field. -/
theorem State.rxPay_eq (s : State) (i : Nat) :
    s.rxPay i = if 10 + i < s.rxLen.toNat then s.bufByte .rxbuf (5 + i) else 0 := by
  unfold State.rxPay State.rxSize
  by_cases h : 10 + i < s.rxLen.toNat
  · rw [if_pos h, if_pos (by omega)]
  · rw [if_neg h, if_neg (by omega)]

/-- What FRAME_DECODE computes depends on memory and RX_LEN alone. -/
theorem State.rx_congr {s t : State} (hm : t.mem = s.mem) (hl : t.rxLen = s.rxLen) :
    t.rxRecv = s.rxRecv ∧ t.rxCalcCrc = s.rxCalcCrc ∧ t.rxFrameHdr = s.rxFrameHdr ∧
      t.rxFrameAck = s.rxFrameAck ∧ (t.rxSentinelsOk ↔ s.rxSentinelsOk) := by
  have hb : ∀ i, t.bufByte .rxbuf i = s.bufByte .rxbuf i := fun i => State.bufByte_congr hm _ i
  have hp : ∀ i, t.rxPay i = s.rxPay i := fun i => by rw [State.rxPay_eq, State.rxPay_eq, hl, hb]
  simp only [State.rxRecv, State.rxCalcCrc, State.rxFrameHdr, State.rxFrameAck, State.rxSentinelsOk,
    State.rxBE32, State.rxBE16, State.rxSize, hl, hb, hp, State.bufBytes_congr hm, and_self, iff_self]

/-- What FRAME_ENCODE computes depends on memory and FRM_HDR alone. -/
theorem State.payload_congr {s t : State} (hm : t.mem = s.mem) (hh : t.frmHdr = s.frmHdr) : t.payload = s.payload := by
  simp only [State.payload, State.hdrLen, hh, State.bufBytes_congr hm]

theorem execCrcFeedBuf_cases {s t : State} (h : execCrcFeedBuf s = .next t) :
    (s.cfg.maxPayload < s.spanOff.toNat + s.spanLen.toNat ∧ t = s.finish .paramError) ∨
    (s.spanOff.toNat + s.spanLen.toNat ≤ s.cfg.maxPayload ∧ t = (s.setR (crcFold s.r s.span)).finish .ok) := by
  unfold execCrcFeedBuf at h
  split at h <;> cases h
  · exact .inl ⟨by omega, rfl⟩
  · exact .inr ⟨by omega, rfl⟩

theorem execFrameEncode_cases {s t : State} (h : execFrameEncode s = .next t) :
    (s.cfg.maxPayload < s.hdrLen.toNat ∧ t = s.finish .encodeError) ∨
    (s.hdrLen.toNat ≤ s.cfg.maxPayload ∧
      t = (s.putFrame (wireFrame s.hdrClass s.hdrMsg s.hdrLen s.payload)
        (frameCrc s.hdrClass s.hdrMsg s.hdrLen s.payload)).finish .ok) := by
  unfold execFrameEncode at h
  split at h <;> cases h
  · exact .inl ⟨by omega, rfl⟩
  · exact .inr ⟨by omega, rfl⟩

theorem execFrameDecode_cases {s t : State} (h : execFrameDecode s = .next t) :
    (¬ s.rxSizeOk ∧ t = s.finish .paramError) ∨
    (s.rxSizeOk ∧ ¬ s.rxSentinelsOk ∧ t = s.finish .framingError) ∨
    (s.rxSizeOk ∧ s.rxSentinelsOk ∧ s.rxRecv ≠ s.rxCalcCrc ∧
      t = (s.setRxCrcs s.rxRecv s.rxCalcCrc).finish .integrityError) ∨
    (s.rxSizeOk ∧ s.rxSentinelsOk ∧ s.rxRecv = s.rxCalcCrc ∧
      t = ((s.setRxCrcs s.rxRecv s.rxCalcCrc).setRxFrame s.rxFrameHdr s.rxFrameAck).finish .ok) := by
  unfold execFrameDecode at h
  split at h
  · cases h; exact .inl ⟨‹_›, rfl⟩
  · rename_i h0
    split at h
    · cases h; exact .inr (.inl ⟨not_not.1 h0, ‹_›, rfl⟩)
    · rename_i h1
      split at h
      · cases h; exact .inr (.inr (.inl ⟨not_not.1 h0, not_not.1 h1, ‹_›, rfl⟩))
      · rename_i h2
        cases h; exact .inr (.inr (.inr ⟨not_not.1 h0, not_not.1 h1, not_not.1 h2, rfl⟩))

theorem execCrcFeedBuf_outside {s : State} (h : s.cfg.maxPayload < s.spanOff.toNat + s.spanLen.toNat) :
    execCrcFeedBuf s = .next (s.finish .paramError) := if_pos h

theorem execCrcFeedBuf_inside {s : State} (h : s.spanOff.toNat + s.spanLen.toNat ≤ s.cfg.maxPayload) :
    execCrcFeedBuf s = .next ((s.setR (crcFold s.r s.span)).finish .ok) := if_neg (Nat.not_lt.2 h)

theorem execFrameEncode_long {s : State} (h : s.cfg.maxPayload < s.hdrLen.toNat) :
    execFrameEncode s = .next (s.finish .encodeError) := if_pos h

theorem execFrameEncode_fits {s : State} (h : s.hdrLen.toNat ≤ s.cfg.maxPayload) :
    execFrameEncode s =
      .next ((s.putFrame (wireFrame s.hdrClass s.hdrMsg s.hdrLen s.payload)
        (frameCrc s.hdrClass s.hdrMsg s.hdrLen s.payload)).finish .ok) := if_neg (Nat.not_lt.2 h)

theorem execFrameDecode_size {s : State} (h : ¬ s.rxSizeOk) : execFrameDecode s = .next (s.finish .paramError) :=
  if_pos h

theorem execFrameDecode_sentinels {s : State} (h : s.rxSizeOk) (h1 : ¬ s.rxSentinelsOk) :
    execFrameDecode s = .next (s.finish .framingError) :=
  (if_neg (not_not.2 h)).trans (if_pos h1)

theorem execFrameDecode_crc {s : State} (h : s.rxSizeOk) (h1 : s.rxSentinelsOk) (h2 : s.rxRecv ≠ s.rxCalcCrc) :
    execFrameDecode s = .next ((s.setRxCrcs s.rxRecv s.rxCalcCrc).finish .integrityError) :=
  (if_neg (not_not.2 h)).trans ((if_neg (not_not.2 h1)).trans (if_pos h2))

theorem execFrameDecode_good {s : State} (h : s.rxSizeOk) (h1 : s.rxSentinelsOk) (h2 : s.rxRecv = s.rxCalcCrc) :
    execFrameDecode s =
      .next (((s.setRxCrcs s.rxRecv s.rxCalcCrc).setRxFrame s.rxFrameHdr s.rxFrameAck).finish .ok) :=
  (if_neg (not_not.2 h)).trans ((if_neg (not_not.2 h1)).trans (if_neg (not_not.2 h2)))

/-- Everything `exec` can leave: a command that fails writes STATUS alone; a CRC command writes R;
FRAME_ENCODE writes the frame; FRAME_DECODE writes the two CRCs, and on OK the frame's fields. -/
theorem exec_cases {i : Instr} {s t : State} (h : exec i s = .next t) :
    (∃ c, t = s.finish c) ∨
    (i ≠ .frameEncode ∧ i ≠ .frameDecode ∧ ∃ v, t = (s.setR v).finish .ok) ∨
    (i = .frameEncode ∧ s.hdrLen.toNat ≤ s.cfg.maxPayload ∧
      t = (s.putFrame (wireFrame s.hdrClass s.hdrMsg s.hdrLen s.payload)
        (frameCrc s.hdrClass s.hdrMsg s.hdrLen s.payload)).finish .ok) ∨
    (i = .frameDecode ∧ ∃ a b, t = (s.setRxCrcs a b).finish .integrityError) ∨
    (i = .frameDecode ∧ ∃ a b c d, t = ((s.setRxCrcs a b).setRxFrame c d).finish .ok) := by
  cases i with
  | crcLoad => cases h; exact .inr (.inl ⟨by simp, by simp, _, rfl⟩)
  | crcFeedByte b => cases h; exact .inr (.inl ⟨by simp, by simp, _, rfl⟩)
  | crcFeedWordLe => cases h; exact .inr (.inl ⟨by simp, by simp, _, rfl⟩)
  | crcFeedBuf =>
    rcases execCrcFeedBuf_cases h with ⟨-, rfl⟩ | ⟨-, rfl⟩
    · exact .inl ⟨_, rfl⟩
    · exact .inr (.inl ⟨by simp, by simp, _, rfl⟩)
  | frameEncode =>
    rcases execFrameEncode_cases h with ⟨-, rfl⟩ | ⟨hl, rfl⟩
    · exact .inl ⟨_, rfl⟩
    · exact .inr (.inr (.inl ⟨rfl, hl, rfl⟩))
  | frameDecode =>
    rcases execFrameDecode_cases h with ⟨-, rfl⟩ | ⟨-, -, rfl⟩ | ⟨-, -, -, rfl⟩ | ⟨-, -, -, rfl⟩
    · exact .inl ⟨_, rfl⟩
    · exact .inl ⟨_, rfl⟩
    · exact .inr (.inr (.inr (.inl ⟨rfl, _, _, rfl⟩)))
    · exact .inr (.inr (.inr (.inr ⟨rfl, _, _, _, _, rfl⟩)))

/-- Every command ends with BUSY = 0. -/
theorem exec_idle {i : Instr} {s t : State} (h : exec i s = .next t) : t.busy = false := by
  rcases exec_cases h with ⟨c, rfl⟩ | ⟨-, -, v, rfl⟩ | ⟨-, -, rfl⟩ | ⟨-, a, b, rfl⟩ | ⟨-, a, b, c, d, rfl⟩ <;> rfl

/-- The ENGINE step of a legal word is `exec`. -/
theorem engineStep_legal {s : State} {i : Instr} (h : decode s.cmdLatch = .ok i) : engineStep s = exec i s := by
  unfold engineStep State.fetch; rw [h]

/-- The ENGINE step of an illegal word reports it. -/
theorem engineStep_illegal {s : State} {e : IllegalWord} (h : decode s.cmdLatch = .error e) :
    engineStep s = .next (s.finish .illegalCmd) := by
  unfold engineStep State.fetch; rw [h]

/-- The ENGINE step is an illegal word's finish or a command's effect. -/
theorem engineStep_cases {s t : State} (h : engineStep s = .next t) :
    ((∃ e, decode s.cmdLatch = .error e) ∧ t = s.finish .illegalCmd) ∨
    (∃ i, decode s.cmdLatch = .ok i ∧ exec i s = .next t) := by
  unfold engineStep State.fetch at h
  split at h
  · exact .inr ⟨_, ‹_›, h⟩
  · cases h; exact .inl ⟨⟨_, ‹_›⟩, rfl⟩

end Sys2Proof.Machine
end

