-- ==== Sys2Proof/Laws/PerInstr.lean ====
section
/-! SUPPORT. Per instruction, as syntax: its word lies in its own row of 30_encoding.md R62. -/

namespace Sys2Proof.Laws.EncodesIntoRow

/-- The instruction's word equals its row's match value under its row's mask, its RSVD is 0, and its IMM8
is 0 unless the mask leaves IMM8 open. -/
def Statement (i : Sys2Proof.Instr) : Prop :=
  Sys2Proof.encode i &&& Sys2Proof.rowMask i = Sys2Proof.rowMatch i ∧
    Sys2Proof.rsvdField (Sys2Proof.encode i) = 0 ∧
    (Sys2Proof.rowMask i = 0xFFFFFFFF → Sys2Proof.imm8Field (Sys2Proof.encode i) = 0)

theorem crcLoad : Statement .crcLoad := by unfold Statement; decide

theorem crcFeedByte (b : Sys2Proof.Byte) : Statement (.crcFeedByte b) := by
  refine ⟨?_, ?_, fun h => absurd h (show ¬ (0xFFFF00FF : Sys2Proof.Word) = 0xFFFFFFFF by decide)⟩
  · apply BitVec.eq_of_getLsbD_eq; intro i hi
    simp only [Sys2Proof.encode, Sys2Proof.rowMask, Sys2Proof.rowMatch]
    interval_cases i <;> simp
  · apply BitVec.eq_of_getLsbD_eq; intro i hi
    simp only [Sys2Proof.encode, Sys2Proof.rsvdField]
    interval_cases i <;> simp

theorem crcFeedWordLe : Statement .crcFeedWordLe := by unfold Statement; decide

theorem crcFeedBuf : Statement .crcFeedBuf := by unfold Statement; decide

theorem frameEncode : Statement .frameEncode := by unfold Statement; decide

theorem frameDecode : Statement .frameDecode := by unfold Statement; decide

end Sys2Proof.Laws.EncodesIntoRow
end

