-- ==== Sys2Proof/Laws/Run.lean ====
section
/-! SUPPORT. Runs, step by step. -/

namespace Sys2Proof.Machine

theorem goodRun_zero (s t : State) : goodRun 0 s t ↔ s = t := by
  constructor
  · intro h; cases h; rfl
  · rintro rfl; rfl

/-- A run is its first step and the run from where that leads. -/
theorem goodRun_succ (k : Nat) (s u : State) :
    goodRun (k + 1) s u ↔ ∃ t, step s = .next t ∧ goodRun k t u := by
  unfold goodRun
  constructor
  · intro h
    cases hs : step s with
    | next t =>
      have hs' : Sys2Proof.core.step s = .next t := hs
      refine ⟨t, rfl, ?_⟩
      simpa only [Host.Core.run, hs'] using h
    | fault f =>
      have hs' : Sys2Proof.core.step s = .fault f := hs
      simp only [Host.Core.run, hs'] at h
      cases h
    | refused r =>
      have hs' : Sys2Proof.core.step s = .refused r := hs
      simp only [Host.Core.run, hs'] at h
      cases h
  · rintro ⟨t, hs, h⟩
    have hs' : Sys2Proof.core.step s = .next t := hs
    simpa only [Host.Core.run, hs'] using h

/-- Two runs one after the other are one. -/
theorem goodRun_trans {j k : Nat} {s t u : State} (h1 : goodRun j s t) (h2 : goodRun k t u) : goodRun (j + k) s u := by
  induction j generalizing s with
  | zero => rw [goodRun_zero] at h1; subst h1; rw [Nat.zero_add]; exact h2
  | succ j ih =>
    rw [goodRun_succ] at h1
    obtain ⟨v, hv, h1⟩ := h1
    rw [Nat.add_right_comm, goodRun_succ]
    exact ⟨v, hv, ih h1⟩

/-- One step is a run of one. -/
theorem goodRun_one {s t : State} (h : step s = .next t) : goodRun 1 s t := by
  rw [goodRun_succ]; exact ⟨t, h, (goodRun_zero t t).2 rfl⟩

end Sys2Proof.Machine
end

