-- ==== Sys2Proof/Tests/Slice0.lean ====
section
/-! SUPPORT. Tests whose expected results are the spec's own vectors (95_test_vectors.md), and a witness for the hypotheses of every statement. -/

namespace Sys2Proof.Tests

open Sys2Proof Sys2Proof.Machine

/-! ### Helpers -/

/-- MAX_PAYLOAD = 4, at BASE = 0x1000, otherwise as after reset. -/
def tiny : State := { State.reset with cfg := { maxPayload := 4, base := 0x1000 } }

/-- A field of the state an outcome goes on with. -/
def field {α : Type} (o : Host.Outcome State Fault Refusal) (f : State → α) : Option α :=
  match o with
  | .next t => some (f t)
  | .fault _ => none
  | .refused _ => none

/-- The bytes of the frame of V-ENC-2 and V-DEC-1. -/
def goodFrame : List Byte := [0xAA, 0x02, 0x01, 0x00, 0x04, 0xDE, 0xAD, 0xBE, 0xEF, 0x29, 0x28, 0x09, 0x26, 0x55]

/-- `tiny` with bytes received and RX_LEN set. -/
def received (f : List Byte) (n : Nat) : State :=
  { tiny.storeBytes .rxbuf 0 f with rxLen := BitVec.ofNat 17 n }

/-- `tiny` with a payload and FRM_HDR set. -/
def sending (p : List Byte) (h : Word) : State := { tiny.storeBytes .pbuf 0 p with frmHdr := h }

/-- `tiny` with PBUF = "1234", R as after reset, and CRC_SPAN set. -/
def feeding (span : Word) : State := { tiny.storeBytes .pbuf 0 [0x31, 0x32, 0x33, 0x34] with crcSpan := span }

/-- `s` with one access of the HOST to come and the turn for it. -/
def hostTurn (op : HostOp) (s : State) : State := { s with prog := [op], sched := [.host] }

/-- `s` with one access of the HOST to come, on the default turn. -/
def hostDefault (op : HostOp) (s : State) : State := { s with prog := [op] }

/-- `s` with a command in progress. -/
def running (w : Word) (s : State) : State := { s with cmdLatch := w, busy := true }

/-! ### Well-formedness -/

theorem test_wf_refuses_empty_payload : ¬ ({ maxPayload := 0, base := 0 } : Config).WellFormed := by decide
theorem test_wf_refuses_long_payload : ¬ ({ maxPayload := 65536, base := 0 } : Config).WellFormed := by decide
theorem test_wf_refuses_misaligned_base : ¬ ({ maxPayload := 4100, base := 2 } : Config).WellFormed := by decide
theorem test_wf_accepts_bounds :
    ({ maxPayload := 1, base := 4 } : Config).WellFormed ∧ ({ maxPayload := 65535, base := 0 } : Config).WellFormed ∧
      tiny.cfg.WellFormed ∧ Config.reference.WellFormed := by decide
/-- The one operand in a word is a byte by its type, so no term of `Instr` is ill-formed. -/
theorem test_wf_instr_has_no_ill_formed_term (i : Instr) : i.wellFormed = true := by cases i <;> rfl
/-- What would be an ill-formed command exists only as a word, and the decoder refuses it by name. -/
theorem test_ill_formed_words_refused :
    decode 0x00000501 = .error .imm8NotZero ∧ decode 0x01003102 = .error .rsvdNotZero ∧
      decode 0x00000013 = .error .reservedOp := by decide

/-! ### Decoding: words from 30_encoding.md R62 -/

theorem test_decode_crcLoad : decode (0b0000000000000000_00000000_00000001 : Word) = .ok .crcLoad := by decide
theorem test_decode_crcFeedByte :
    decode (0b0000000000000000_00110001_00000010 : Word) = .ok (.crcFeedByte 0x31) := by decide
theorem test_decode_crcFeedWordLe :
    decode (0b0000000000000000_00000000_00000011 : Word) = .ok .crcFeedWordLe := by decide
theorem test_decode_crcFeedBuf : decode (0b0000000000000000_00000000_00000100 : Word) = .ok .crcFeedBuf := by decide
theorem test_decode_frameEncode : decode (0b0000000000000000_00000000_00010000 : Word) = .ok .frameEncode := by decide
theorem test_decode_frameDecode : decode (0b0000000000000000_00000000_00010001 : Word) = .ok .frameDecode := by decide
theorem test_encode_crcFeedByte : encode (.crcFeedByte 0xFF) = 0x0000FF02 := by decide

/-! ### The CRC commands -/

/-- The spot checks of 95_test_vectors.md section 2.1. -/
theorem test_crcTable_spots :
    crcTable[0x00]? = some 0x00000000 ∧ crcTable[0x01]? = some 0x77073096 ∧ crcTable[0x80]? = some 0xEDB88320 ∧
      crcTable[0xFF]? = some 0x2D02EF8D := by decide
/-- V-CMD-3. -/
theorem test_crcLoad :
    field (exec .crcLoad { tiny with crcSeed := 0x12345678 }) (fun t => (t.r, t.readReg .crcValue, t.code)) =
      some (0xEDCBA987, 0x12345678, .ok) := by decide
/-- V-CMD-4. -/
theorem test_crcFeedByte :
    field (exec (.crcFeedByte 0x31) tiny) (fun t => (t.r, t.readReg .crcValue)) = some (0x7C231048, 0x83DCEFB7) := by
  decide +kernel
/-- V-CMD-7, "not a no-op". -/
theorem test_crcFeedWordLe_zero : field (exec .crcFeedWordLe tiny) (·.r) = some 0xDEBB20E3 := by decide +kernel
/-- V-CMD-8. -/
theorem test_crcFeedWordLe_order :
    field (exec .crcFeedWordLe { tiny with crcWord := 0x00003000 }) (·.r) = some 0xFAD0C573 := by decide +kernel
/-- V-CMD-15: the span ends at the last byte. -/
theorem test_crcFeedBuf_inside :
    field (exec .crcFeedBuf (feeding 0x00040000)) (fun t => (t.r, t.readReg .crcValue, t.code)) =
      some (0x641C1F5C, 0x9BE3E0A3, .ok) := by decide +kernel
/-- V-CMD-13: OFF + LEN does not wrap. -/
theorem test_crcFeedBuf_outside :
    field (exec .crcFeedBuf (feeding 0xFFFFFFFF)) (fun t => (t.r, t.code)) = some (0xFFFFFFFF, .paramError) := by
  decide +kernel

/-! ### The frame commands -/

/-- V-ENC-12, which fills TXBUF exactly. -/
theorem test_frameEncode :
    field (exec .frameEncode (sending [0xDE, 0xAD, 0xBE, 0xEF] 0x00040102))
      (fun t => (t.bufBytes .txbuf 0 14, t.txLen, t.txCrc, t.code)) =
      some (goodFrame, 14, 0x29280926, .ok) := by decide +kernel
/-- V-ENC-13: nothing but STATUS. -/
theorem test_frameEncode_long :
    field (exec .frameEncode (sending [] 0x00050102)) (fun t => (t.txLen, t.txCrc, t.mem, t.code)) =
      some (0, 0, [], .encodeError) := by decide +kernel
/-- V-DEC-9, the fields of V-DEC-1. -/
theorem test_frameDecode_ok :
    field (exec .frameDecode (received goodFrame 14)) (fun t => (t.rxHdr, t.rxCrc, t.rxCalc, t.rxAck, t.code)) =
      some (0x00040102, 0x29280926, 0x29280926, 0xBEEFADDE, .ok) := by decide +kernel
/-- V-DEC-15: RX_CRC and RX_CALC written, RX_HDR and RX_ACK not. -/
theorem test_frameDecode_integrity :
    field (exec .frameDecode
        (received [0xAA, 0x02, 0x01, 0x00, 0x04, 0xDF, 0xAD, 0xBE, 0xEF, 0x29, 0x28, 0x09, 0x26, 0x55] 14))
      (fun t => (t.rxHdr, t.rxCrc, t.rxCalc, t.rxAck, t.code)) =
      some (0, 0x29280926, 0x91946E43, 0, .integrityError) := by decide +kernel

/-! ### The bus -/

/-- V-BUS-8: bytes past the capacity read 0. -/
theorem test_bus_read_past_capacity : (tiny.storeBytes .txbuf 0 goodFrame).readTarget (.buf .txbuf 12) = 0x00005526 := by
  decide +kernel
/-- V-BUS-13. -/
theorem test_bus_write_rxLen : (tiny.writeTarget (.reg .rxLen) 0xFFFFFFFF).readReg .rxLen = 0x0001FFFF := by decide
/-- V-BUS-17. -/
theorem test_bus_write_busy :
    (fun t => (t.crcSeed, t.readReg .status)) ((running 0x00000001 tiny).writeTarget (.reg .crcSeed) 7) =
      (0, 0x00000300) := by decide
/-- V-BUS-18: a bus error comes before the busy check. -/
theorem test_bus_error_before_busy : (running 0x00000001 tiny).busWrite 4 0x3C 5 = running 0x00000001 tiny := by
  decide

/-! ### Witnesses: a state and operands that meet the hypotheses of each statement -/

theorem witness_DecodeIsTheInverseOfEncode : (Instr.crcFeedByte 0xFF).wellFormed = true := rfl

/-- One word of each of the three kinds. -/
theorem witness_IllegalWordReportsAndChangesNothingElse :
    rsvdField 0x00010002 ≠ 0 ∧ opField 0x00000005 ∉ ([0x01, 0x02, 0x03, 0x04, 0x10, 0x11] : List Byte) ∧
      (imm8Field 0x00000501 ≠ 0 ∧ opField 0x00000501 ≠ 0x02) ∧ tiny.busy = false := by decide

theorem witness_StepRunsTheLatchedCommand :
    ((running 0x00003102 tiny).busy = true ∧ decode (running 0x00003102 tiny).cmdLatch = .ok (.crcFeedByte 0x31) ∧
      (running 0x00003102 tiny).sched = []) ∧
    ({ running 0x00003102 tiny with sched := [.engine, .host] } : State).sched = .engine :: [.host] ∧
    (tiny.busy = false ∧ ({ tiny with sched := [.engine] } : State).sched = .engine :: []) ∧
    decodeTableWord 32 0x00003102 = some (.crcFeedByte 0x31) := by decide

/-- A word that decodes to nothing decodes to no instruction. -/
theorem no_instr_of_error {w : Word} {e : IllegalWord} (h : decode w = .error e) (i : Instr) : decode w ≠ .ok i := by
  rw [h]
  exact fun hi => nomatch hi

/-- The clause on illegal words: one of each kind (30_encoding.md R64). -/
theorem witness_StepRunsTheLatchedCommand_illegal :
    (∀ i, decode (running 0x00000000 tiny).cmdLatch ≠ .ok i) ∧ (∀ i, decode (running 0x00000501 tiny).cmdLatch ≠ .ok i) ∧
      (∀ i, decode (running 0x00010002 tiny).cmdLatch ≠ .ok i) :=
  ⟨no_instr_of_error (w := 0x00000000) (e := .reservedOp) (by decide),
    no_instr_of_error (w := 0x00000501) (e := .imm8NotZero) (by decide),
    no_instr_of_error (w := 0x00010002) (e := .rsvdNotZero) (by decide)⟩

/-- The first and the last entry, by the spot checks of 95_test_vectors.md. -/
theorem witness_TableHoldsTheEntriesOfItsLoop :
    0 < 256 ∧ 255 < 256 ∧ crcLoopEntry 0 = 0x00000000 ∧ crcLoopEntry 255 = 0x2D02EF8D := by decide

theorem witness_CrcLoadEffect : tiny.crcSeed = tiny.readReg .crcValue := by decide

/-- OFF + LEN at MAX_PAYLOAD and one above, and LEN = 0 at both places (V-CMD-10, V-CMD-12). -/
theorem witness_CrcFeedBufEffect :
    (feeding 0x00040000).spanOff.toNat + (feeding 0x00040000).spanLen.toNat = (feeding 0x00040000).cfg.maxPayload ∧
    (feeding 0x00010004).spanOff.toNat + (feeding 0x00010004).spanLen.toNat = (feeding 0x00010004).cfg.maxPayload + 1 ∧
    ((feeding 0x00000004).spanLen.toNat = 0 ∧ (feeding 0x00000004).spanOff.toNat = (feeding 0x00000004).cfg.maxPayload) ∧
    ((feeding 0x00000005).spanLen.toNat = 0 ∧
      (feeding 0x00000005).spanOff.toNat = (feeding 0x00000005).cfg.maxPayload + 1) := by decide

/-- One byte fed, and a CRC_FEED_WORD_LE in progress. -/
def fedOne : State := { running 0x03 tiny with r := 0x7C231048 }

theorem fedOne_steps : step fedOne = exec .crcFeedWordLe { fedOne with sched := [] } :=
  (step_engine (more := []) (by decide)).trans (engineStep_legal (by decide))

/-- Feeds of every kind after the load, one of them outside PBUF; a step from a state with one byte fed
 (V-CRC-14); and a CRC_LOAD's step. -/
theorem witness_CrcValueReadsTheRunningCrc :
    (∀ i ∈ [Instr.crcFeedByte 0x31, .crcFeedWordLe, .frameEncode, .crcFeedBuf, .frameDecode], i ≠ .crcLoad) ∧
    (fedOne.readReg .crcValue = crc32 0 [0x31] ∧ ∃ t, goodRun 1 fedOne t) ∧
    (∃ t, step { running 0x01 tiny with sched := [.engine] } = .next t) ∧
    decode (running 0x01 tiny).cmdLatch = .ok .crcLoad ∧ tiny.busy = false :=
  ⟨by decide, ⟨by decide +kernel, _, goodRun_one (fedOne_steps.trans rfl)⟩, ⟨_, rfl⟩, by decide, rfl⟩

/-- "1" (V-CRC-14), then LE32(0x34333231) and an empty span: what the ghost record takes down. -/
theorem test_fed_bytes :
    fedBytes (.crcFeedByte 0x31) tiny = [0x31] ∧
    fedBytes .crcFeedWordLe { tiny with crcWord := 0x12345678 } = [0x78, 0x56, 0x34, 0x12] ∧
    fedBytes .crcFeedBuf (feeding 0x00040000) = [0x31, 0x32, 0x33, 0x34] ∧
    fedBytes .crcFeedBuf (feeding 0x00010004) = [] := by decide +kernel

/-- Program P5's kind of image: three bytes in blocks of two, padded to four. -/
theorem witness_WholeImageProgramComputesTheImageCrc :
    tiny.cfg.WellFormed ∧ tiny.busy = false ∧ tiny.sched = [] ∧
    ({ tiny with prog := imageProgram tiny.cfg 4 [[0x01, 0x02], [0x03, 0xFF]] } : State).prog =
      imageProgram tiny.cfg (BitVec.ofNat 32 (paddedSize 3 2)) [[0x01, 0x02], [0x03, 0xFF]] ∧
    (∀ b ∈ ([[0x01, 0x02], [0x03, 0xFF]] : List (List Byte)), b.length ≤ tiny.cfg.maxPayload) ∧
    ([[0x01, 0x02], [0x03, 0xFF]] : List (List Byte)).flatten = padImage [0x01, 0x02, 0x03] 2 := by decide

/-- An empty payload and one of four bytes. -/
theorem witness_WireFrameLayout :
    ([] : List Byte).length = (0 : Half).toNat ∧ ([0xDE, 0xAD, 0xBE, 0xEF] : List Byte).length = (4 : Half).toNat := by
  decide

/-- L = MAX_PAYLOAD and L = MAX_PAYLOAD + 1. -/
theorem witness_FrameEncodeEffect :
    (sending [0xDE, 0xAD, 0xBE, 0xEF] 0x00040102).hdrLen.toNat = tiny.cfg.maxPayload ∧
      (sending [] 0x00050102).hdrLen.toNat = tiny.cfg.maxPayload + 1 := by decide

/-- V-DEC-7, 10, 11, 12, 15 and 9, and the smallest frame, V-DEC-3: each outcome at its boundary. -/
theorem witness_FrameDecodeOutcomes :
    (received goodFrame 9).rxLen.toNat = 9 ∧ (received goodFrame 15).rxLen.toNat = tiny.cfg.maxPayload + 11 ∧
    (received goodFrame 14).rxLen.toNat = tiny.cfg.maxPayload + 10 ∧
    (received [0xAB] 14).bufByte .rxbuf 0 ≠ 0xAA ∧
    ((received (goodFrame.take 13 ++ [0x54]) 14).bufByte .rxbuf 0 = 0xAA ∧
      (received (goodFrame.take 13 ++ [0x54]) 14).bufByte .rxbuf 13 ≠ 0x55) ∧
    ((received goodFrame 14).rxSentinelsOk ∧ (received goodFrame 14).rxRecv = (received goodFrame 14).rxCalcCrc) ∧
    ((received [0xAA, 0, 0, 0, 0, 0, 0, 0, 0, 0x55] 10).rxSizeOk ∧
      (received [0xAA, 0, 0, 0, 0, 0, 0, 0, 0, 0x55] 10).rxSentinelsOk ∧
      (received [0xAA, 0, 0, 0, 0, 0, 0, 0, 0, 0x55] 10).rxRecv ≠
        (received [0xAA, 0, 0, 0, 0, 0, 0, 0, 0, 0x55] 10).rxCalcCrc) := by decide +kernel

/-- The first clause on V-DEC-9, the second on a CRC_LOAD and on a FRAME_DECODE with a bad header. -/
theorem witness_ReceivedCrcsAreThoseOfTheLastDecodeThatReachedTheCheck :
    ((received goodFrame 14).rxSizeOk ∧ (received goodFrame 14).rxSentinelsOk) ∧
    (∃ t, exec .crcLoad tiny = .next t ∧ ¬ (Instr.crcLoad = .frameDecode ∧ (t.code = .ok ∨ t.code = .integrityError))) ∧
    (∃ t, exec .frameDecode (received [0xAB] 14) = .next t ∧
      ¬ (Instr.frameDecode = .frameDecode ∧ (t.code = .ok ∨ t.code = .integrityError))) :=
  ⟨by decide +kernel, ⟨_, rfl, by decide⟩,
    ⟨_, execFrameDecode_sentinels (by decide) (by decide +kernel), by decide⟩⟩

/-- V-DEC-9: the good frame decodes. -/
theorem goodFrame_decodes : ∃ t, exec .frameDecode (received goodFrame 14) = .next t ∧ t.code = .ok :=
  ⟨_, execFrameDecode_good (by decide) (by decide +kernel) (by decide +kernel), rfl⟩

/-- Payloads of 4, 0 and 1 bytes (V-DEC-9, V-DEC-3, V-DEC-4), and another command. -/
theorem witness_GoodFrameFillsHeaderAndAck :
    (∃ t, exec .frameDecode (received goodFrame 14) = .next t ∧ t.code = .ok) ∧
    (∃ t, exec .frameDecode (received [0xAA, 0x03, 0x04, 0x00, 0x00, 0x34, 0xF8, 0xD8, 0x2E, 0x55] 10) = .next t ∧
      t.code = .ok) ∧
    (∃ t, exec .frameDecode (received [0xAA, 0x03, 0x04, 0x00, 0x01, 0x64, 0x5D, 0x24, 0x8E, 0x9A, 0x55] 11) = .next t ∧
      t.code = .ok) ∧
    (∃ t, exec .frameDecode (received goodFrame 9) = .next t ∧ ¬ (Instr.frameDecode = .frameDecode ∧ t.code = .ok)) :=
  ⟨goodFrame_decodes,
    ⟨_, execFrameDecode_good (by decide) (by decide +kernel) (by decide +kernel), rfl⟩,
    ⟨_, execFrameDecode_good (by decide) (by decide +kernel) (by decide +kernel), rfl⟩,
    ⟨_, execFrameDecode_size (by decide), by decide⟩⟩

/-- V-DEC-6: a length field of 5 over a payload of 4. -/
theorem witness_DecodeAcceptsAnyLengthField :
    (fun s : State =>
      ([0xDE, 0xAD, 0xBE, 0xEF] : List Byte).length ≤ s.cfg.maxPayload ∧
      s.rxLen.toNat = 10 + ([0xDE, 0xAD, 0xBE, 0xEF] : List Byte).length ∧
      s.bufBytes .rxbuf 0 (10 + ([0xDE, 0xAD, 0xBE, 0xEF] : List Byte).length) =
        wireFrame 0x02 0x01 5 [0xDE, 0xAD, 0xBE, 0xEF])
      (received [0xAA, 0x02, 0x01, 0x00, 0x05, 0xDE, 0xAD, 0xBE, 0xEF, 0x14, 0x48, 0x20, 0x96, 0x55] 14) := by
  decide +kernel

/-- RXBUF[11] differs, which a frame of 10 bytes does not hold. -/
theorem witness_DecodeReadsNoByteBeyondTheSize :
    (∀ j, j < (received goodFrame 10).rxLen.toNat →
      Memory.read ((received goodFrame 10).storeBytes .rxbuf 11 [0x77]).mem (0x60000 + j) =
        Memory.read (received goodFrame 10).mem (0x60000 + j)) ∧
    ((received goodFrame 10).storeBytes .rxbuf 11 [0x77]).mem ≠ (received goodFrame 10).mem ∧
    ∃ t, exec .frameDecode (received goodFrame 10) = .next t :=
  ⟨by decide +kernel, by decide +kernel, ⟨_, execFrameDecode_sentinels (by decide) (by decide +kernel)⟩⟩

theorem witness_FrameCommandsNeitherReadNorWriteTheAccumulator :
    (Instr.frameEncode = .frameEncode ∨ Instr.frameEncode = .frameDecode) ∧
      (Instr.frameDecode = .frameEncode ∨ Instr.frameDecode = .frameDecode) := by decide

/-- L = MAX_PAYLOAD, and the empty payload. -/
theorem witness_EncodeThenDecodeReproducesTheFrame :
    4 = ((sending [0xDE, 0xAD, 0xBE, 0xEF] 0x00040102).frmHdr.extractLsb' 16 16).toNat ∧
      0 = ((sending [] 0x00000102).frmHdr.extractLsb' 16 16).toNat ∧ 4 ≤ tiny.cfg.maxPayload := by decide

/-- Both sentinels, a payload byte and a CRC byte of the good frame, first and last bit. -/
theorem witness_EverySingleBitFlipIsDetected :
    (∃ t, exec .frameDecode (received goodFrame 14) = .next t ∧ t.code = .ok) ∧
      (∀ i ∈ [0, 5, 9, 13], i < (received goodFrame 14).rxLen.toNat) ∧ (0 < 8 ∧ 7 < 8) :=
  ⟨goodFrame_decodes, by decide, by decide⟩

/-- An encode, and a command of another kind. -/
theorem witness_CommandsLeaveTheRestUnchanged :
    (∃ t, exec .frameEncode (sending [0xDE, 0xAD, 0xBE, 0xEF] 0x00040102) = .next t ∧ t.code = .ok) ∧
      ∃ t, exec .crcFeedWordLe tiny = .next t :=
  ⟨⟨_, execFrameEncode_fits (by decide), rfl⟩, ⟨_, rfl⟩⟩

/-- Each code a command can end with. -/
theorem witness_FailedCommandIsPrecise :
    (∃ t, exec .frameEncode (sending [] 0x00050102) = .next t ∧ t.code = .encodeError) ∧
    (∃ t, exec .frameDecode (received [0xAB] 14) = .next t ∧ t.code = .framingError) ∧
    (∃ t, exec .frameDecode (received [0xAA, 0, 0, 0, 0, 0, 0, 0, 0, 0x55] 10) = .next t ∧ t.code = .integrityError) ∧
    (∃ t, exec .frameDecode (received goodFrame 9) = .next t ∧ t.code = .paramError) ∧
    (∃ t, exec .crcFeedBuf (feeding 0x00010004) = .next t ∧ t.code = .paramError) ∧
    (∃ t, exec .frameDecode (received goodFrame 14) = .next t ∧ t.code = .ok) :=
  ⟨⟨_, execFrameEncode_long (by decide), rfl⟩,
    ⟨_, execFrameDecode_sentinels (by decide) (by decide +kernel), rfl⟩,
    ⟨_, execFrameDecode_crc (by decide) (by decide +kernel) (by decide +kernel), rfl⟩,
    ⟨_, execFrameDecode_size (by decide), rfl⟩,
    ⟨_, execCrcFeedBuf_outside (by decide), rfl⟩,
    goodFrame_decodes⟩

/-- The last register, the first offset after it, and each buffer's last word and the first one beyond. -/
theorem witness_ValidAccessesAreAlignedWordsOfTheMap :
    tiny.cfg.WellFormed ∧
    busTarget tiny.cfg 4 0x38 = .ok (.reg .cap) ∧ busTarget tiny.cfg 4 0x3C = .error .busErrorUnmapped ∧
    busTarget tiny.cfg 4 0x20000 = .ok (.buf .pbuf 0) ∧ busTarget tiny.cfg 4 0x20004 = .error .busErrorCapacity ∧
    busTarget tiny.cfg 4 0x4000C = .ok (.buf .txbuf 12) ∧ busTarget tiny.cfg 4 0x40010 = .error .busErrorCapacity ∧
    busTarget tiny.cfg 4 0x6000C = .ok (.buf .rxbuf 12) ∧ busTarget tiny.cfg 4 0x7FFFC = .error .busErrorCapacity ∧
    busTarget tiny.cfg 4 0x1FFFC = .error .busErrorUnmapped := by decide

/-- Each bus error, and a read and a write that make one. -/
theorem witness_BusErrorChangesNothingAndIsAHostFault :
    busTarget tiny.cfg 1 0x00 = .error .busErrorSize ∧ busTarget tiny.cfg 2 0x02 = .error .busErrorSize ∧
    busTarget tiny.cfg 4 0x02 = .error .busErrorMisaligned ∧ busTarget tiny.cfg 4 0x3C = .error .busErrorUnmapped ∧
    busTarget tiny.cfg 4 0x20004 = .error .busErrorCapacity ∧
    (hostTurn (.write 4 (0x1000 + 0x3C) 5) tiny).hostNext (.write 4 (tiny.cfg.base + 0x3C) 5) [] [] ∧
    (hostTurn (.read 4 (0x1000 + 0x3C)) tiny).hostNext (.read 4 (tiny.cfg.base + 0x3C)) [] [] ∧
    (hostTurn (.write 4 (0x1000 + 0x3C) 5) (running 0x01 tiny)).hostNext (.write 4 (tiny.cfg.base + 0x3C) 5) [] [] ∧
    (hostDefault (.read 4 (0x1000 + 0x3C)) tiny).hostNext (.read 4 (tiny.cfg.base + 0x3C)) [] [] := by decide

/-- One address below BASE and the first one beyond the window. -/
theorem witness_AccessOutsideTheWindowIsRefused :
    0xFFC < tiny.cfg.base ∧ tiny.cfg.base + 0x80000 ≤ 0x81000 ∧
    (hostTurn (.read 4 0xFFC) tiny).hostNext (.read 4 0xFFC) [] [] ∧
    (hostTurn (.write 4 0x81000 0) tiny).hostNext (.write 4 0x81000 0) [] [] ∧
    (hostDefault (.write 4 0x81000 0) tiny).hostNext (.write 4 0x81000 0) [] [] := by decide

/-- Every register, and a word that crosses the capacity of TXBUF, on a HOST turn and on the default one. -/
theorem witness_ReadReturnsItsTargetAndChangesNothing :
    (∀ r ∈ Reg.all, busTarget tiny.cfg 4 r.offset = .ok (.reg r) ∧
      (hostTurn (.read 4 (0x1000 + r.offset)) tiny).hostNext (.read 4 (tiny.cfg.base + r.offset)) [] []) ∧
    (busTarget tiny.cfg 4 0x4000C = .ok (.buf .txbuf 12) ∧
      (hostTurn (.read 4 0x4100C) tiny).hostNext (.read 4 (tiny.cfg.base + 0x4000C)) [] [] ∧
      (hostDefault (.read 4 0x4100C) tiny).hostNext (.read 4 (tiny.cfg.base + 0x4000C)) [] []) ∧
    tiny.cfg.WellFormed := by decide

/-- Every register, and a word of each buffer, the last one crossing the capacity. -/
theorem witness_IdleWriteDoesItsTargetsRule :
    (∀ r ∈ Reg.all, busTarget tiny.cfg 4 r.offset = .ok (.reg r) ∧
      (hostTurn (.write 4 (0x1000 + r.offset) 0x200) tiny).hostNext (.write 4 (tiny.cfg.base + r.offset) 0x200) [] []) ∧
    (∀ p ∈ [(Buf.pbuf, 0), (Buf.txbuf, 0), (Buf.rxbuf, 12)],
      busTarget tiny.cfg 4 (p.1.base + p.2) = .ok (.buf p.1 p.2) ∧
      (hostTurn (.write 4 (0x1000 + (p.1.base + p.2)) 0x200) tiny).hostNext
        (.write 4 (tiny.cfg.base + (p.1.base + p.2)) 0x200) [] []) ∧
    (hostDefault (.write 4 0x1000 0x01) tiny).hostNext (.write 4 (tiny.cfg.base + 0x00) 0x01) [] [] ∧
    tiny.busy = false ∧ tiny.cfg.WellFormed := by decide

/-- V-BUS-17, V-BUS-19 and V-BUS-20: CRC_SEED, CMD and STATUS, and a buffer. -/
theorem witness_BusyWriteOnlySetsWriteError :
    ∀ off ∈ [0x00, 0x04, 0x08, 0x20000],
      (∃ g ∈ [Target.reg .cmd, .reg .status, .reg .crcSeed, .buf .pbuf 0], busTarget tiny.cfg 4 off = .ok g) ∧
      (hostTurn (.write 4 (0x1000 + off) 7) (running 0x01 tiny)).hostNext (.write 4 (tiny.cfg.base + off) 7) [] [] ∧
      (hostTurn (.write 4 (0x1000 + off) 7) (running 0x01 tiny)).busy = true := by decide

/-- No delay and a delay of two turns. -/
theorem witness_PollEndsAfterAnyFiniteDelay :
    ∀ n ∈ [0, 2], (fun s : State => s.busy = true ∧ s.sched = List.replicate n .host ∧ s.prog = .poll :: [])
      { running 0x01 tiny with sched := List.replicate n .host, prog := [.poll] } := by decide

/-- CRC_FEED_WORD_LE in progress, a HOST write to CRC_WORD, then the ENGINE's turn. -/
theorem witness_OperandsAreThoseOfTheCmdWrite :
    ∃ s t : State, s.busy = true ∧ s.sched = List.replicate 1 .host ++ [.engine] ∧
      s.prog = [.write 4 0x1010 0x12345678] ∧ goodRun 2 s t :=
  ⟨{ running 0x03 tiny with sched := [.host, .engine], prog := [.write 4 0x1010 0x12345678] }, _, rfl, rfl, rfl, rfl⟩

theorem witness_CmdWriteLatchesAnyWord :
    (tiny.busy = false ∧ ∀ i, decode 0x00000000 ≠ .ok i) ∧ (running 0x01 tiny).busy = true := by
  exact ⟨⟨rfl, no_instr_of_error (e := .reservedOp) (by decide)⟩, rfl⟩

theorem witness_StatusWriteClearsWriteErrorOnly :
    (tiny.busy = false ∧ (0x00000200 : Word).getLsbD 9 = true) ∧ (0x00000100 : Word).getLsbD 9 = false ∧
      (running 0x01 tiny).busy = true := by decide

theorem witness_LengthRegistersHoldSeventeenBits : tiny.busy = false ∧ ∃ t, exec .crcLoad tiny = .next t :=
  ⟨rfl, _, rfl⟩

theorem witness_OperandRegistersReadBackWhatWasWritten :
    Reg.frmHdr ∈ [Reg.crcSeed, .crcWord, .crcSpan, .frmHdr] ∧ tiny.busy = false ∧ ∃ t, exec .crcLoad tiny = .next t :=
  ⟨by decide, rfl, _, rfl⟩

theorem witness_CapReadsMaxPayloadAlways :
    tiny.cfg.WellFormed ∧ (∃ t, step (running 0x01 tiny) = .next t) ∧ tiny.busy = false := ⟨by decide, ⟨_, rfl⟩, rfl⟩

/-- A reset with a command in progress, and a draw of its contents. -/
def resetting : State :=
  { running 0x03 tiny with sched := [.reset { pbuf := [0x11], txbuf := [0x22], rxbuf := [0x33] }] }

theorem witness_ResetEventSetsEveryRegisterAndDrawsTheBuffers :
    resetting.cfg.WellFormed ∧ resetting.sched = .reset { pbuf := [0x11], txbuf := [0x22], rxbuf := [0x33] } :: [] := by
  decide

/-- Against an idle machine with another R. -/
theorem witness_ResetAbandonsTheCommandInProgress :
    resetting.busy = true ∧ resetting.sched = .reset { pbuf := [0x11], txbuf := [0x22], rxbuf := [0x33] } :: [] ∧
    (fun u : State => u.sched = resetting.sched ∧ u.cfg = resetting.cfg ∧ u.prog = resetting.prog ∧
      u.replies = resetting.replies ∧ u ≠ resetting) { resetting with busy := false, r := 0, crcSeed := 9 } := by decide

theorem witness_PowerUpMeetsTheStateInvariant : ({ maxPayload := 65535, base := 4 } : Config).WellFormed := by decide

/-- A machine about to encode a frame. -/
def encoding : State := running 0x10 (sending [0xDE, 0xAD, 0xBE, 0xEF] 0x00040102)

theorem encoding_steps : ∃ t, step encoding = .next t ∧ t.txLen.toNat = 14 := by
  have h : step encoding = execFrameEncode encoding := rfl
  rw [h]
  exact ⟨_, execFrameEncode_fits (by decide), by decide +kernel⟩

theorem witness_EveryStepKeepsTheStateInvariant :
    encoding.Inv ∧ ∃ t, step encoding = .next t ∧ t.txLen.toNat = 14 := ⟨by decide +kernel, encoding_steps⟩

/-- A power-up with another draw, and a byte of it read back. -/
theorem test_powerUp_draw :
    (State.powerUp tiny.cfg { pbuf := [0x11], txbuf := [0x22, 0x23], rxbuf := [] } [] []).bufByte .txbuf 1 = 0x23 := by
  decide +kernel

theorem witness_AccumulatorChangesOnlyByCrcCommands :
    ∃ t, step (running 0x01 { tiny with crcSeed := 7 }) = .next t ∧ t.r ≠ (running 0x01 { tiny with crcSeed := 7 }).r :=
  ⟨_, rfl, by decide⟩

/-- A FRAME_ENCODE, a reset and a CRC command. -/
theorem witness_TransmitSideChangesOnlyByFrameEncode :
    encoding.wf ∧ (∃ t, step encoding = .next t ∧ t.txLen.toNat = 14) ∧
    (resetting.wf ∧ ∃ t, step resetting = .next t) ∧ ((running 0x01 tiny).wf ∧ ∃ t, step (running 0x01 tiny) = .next t) :=
  ⟨by decide +kernel, encoding_steps, ⟨by decide +kernel, _, rfl⟩,
    by decide +kernel, _, rfl⟩

/-- A write into the last word of RXBUF. -/
theorem witness_HostBuffersChangeOnlyByBusWrites :
    (hostTurn (.write 4 0x6100C 0x0000BBAA) tiny).wf ∧ Buf.rxbuf ≠ .txbuf ∧ 13 < Buf.rxbuf.capacity tiny.cfg ∧
    ∃ t, step (hostTurn (.write 4 0x6100C 0x0000BBAA) tiny) = .next t ∧ t.bufByte .rxbuf 13 ≠ tiny.bufByte .rxbuf 13 :=
  ⟨by decide +kernel, by decide, by decide, _, rfl, by decide +kernel⟩

theorem witness_BusyRisesOnlyByACmdWrite :
    ∃ t, step (hostTurn (.write 4 0x1000 0x00000005) tiny) = .next t ∧ tiny.busy = false ∧ t.busy = true :=
  ⟨_, rfl, rfl, rfl⟩

theorem witness_WriteErrorIsSticky :
    ∃ t, step (hostTurn (.write 4 0x1004 0x00000200) { tiny with werr := true }) = .next t ∧ t.werr = false :=
  ⟨_, rfl, by decide⟩

/-- V-ENC-12, V-DEC-9 and V-DEC-15: a frame sent, one received, one corrupted. -/
theorem witness_ResultRegistersReadWhatTheirCommandLeft :
    (∃ t, exec .frameEncode (sending [0xDE, 0xAD, 0xBE, 0xEF] 0x00040102) = .next t ∧ t.code = .ok) ∧
    (∃ t, exec .frameDecode (received goodFrame 14) = .next t ∧ t.code = .ok) ∧
    (∃ t, exec .frameDecode (received [0xAA, 0, 0, 0, 0, 0, 0, 0, 0, 0x55] 10) = .next t ∧ t.code = .integrityError) :=
  ⟨⟨_, execFrameEncode_fits (by decide), rfl⟩, goodFrame_decodes,
    ⟨_, execFrameDecode_crc (by decide) (by decide +kernel) (by decide +kernel), rfl⟩⟩

/-- The six result registers hold six different words, and each is read at its own offset (10_state.md R11). -/
theorem test_result_registers :
    [0x1C, 0x20, 0x28, 0x2C, 0x30, 0x34].map (fun off =>
        (({ tiny with txLen := 1, txCrc := 2, rxHdr := 3, rxCrc := 4, rxCalc := 5, rxAck := 6 } : State).busRead 4 off).data) =
      [1, 2, 3, 4, 5, 6] := by decide

/-- A machine about to decode the frame of V-DEC-9. -/
def decoding : State := running 0x11 (received goodFrame 14)

theorem decoding_steps : ∃ t, step decoding = .next t ∧ t.code = .ok := by
  have h : step decoding = exec .frameDecode { decoding with sched := [] } :=
    (step_engine (more := []) (by decide)).trans (engineStep_legal (by decide))
  rw [h]
  exact ⟨_, execFrameDecode_good (by decide) (by decide +kernel) (by decide +kernel), rfl⟩

/-- A FRAME_DECODE, a reset, a HOST write to a receive register, and an illegal word. -/
theorem witness_ReceiveSideChangesOnlyByFrameDecode :
    (∃ t, step decoding = .next t ∧ t.code = .ok) ∧ (∃ t, step resetting = .next t) ∧
    (∃ t, step (hostTurn (.write 4 0x1028 7) tiny) = .next t) ∧ (∃ t, step (running 0x00 tiny) = .next t) :=
  ⟨decoding_steps, ⟨_, rfl⟩, ⟨_, rfl⟩, ⟨_, rfl⟩⟩

end Sys2Proof.Tests
end

/-! SUPPORT. What the registers read, what a HOST access and a step leave alone, and the running CRC along a run (10_state.md R14 to R24). -/

namespace Sys2Proof.Machine

/-! ### What CRC_VALUE and CAP read -/

@[simp] theorem State.readReg_crcValue (s : State) : s.readReg .crcValue = s.r ^^^ crcInvert := rfl

/-- CRC_VALUE reads `crc32(seed, data)` exactly while R is the fold of the data from the inverted seed. -/
theorem State.readReg_crcValue_eq_crc32 (s : State) (seed : Word) (data : List Byte) :
    s.readReg .crcValue = crc32 seed data ↔ s.r = crcFold (seed ^^^ crcInvert) data := by
  rw [State.readReg_crcValue, crc32, BitVec.xor_left_inj]

/-- CAP depends on the configuration alone. -/
theorem State.readReg_cap_congr {s t : State} (h : t.cfg = s.cfg) : t.readReg .cap = s.readReg .cap := by
  simp only [State.readReg, h]

theorem State.readReg_cap_toNat (s : State) (h : s.cfg.maxPayload ≤ 65535) :
    (s.readReg .cap).toNat = s.cfg.maxPayload := by
  simp only [State.readReg, BitVec.toNat_setWidth, BitVec.toNat_ofNat]
  omega

theorem State.readReg_cap_high (s : State) : (s.readReg .cap).extractLsb' 16 16 = 0 := by
  apply BitVec.eq_of_getLsbD_eq
  intro i hi
  simp [State.readReg]

/-! ### What a HOST access leaves alone -/

/-- A bus write does not reach R. -/
@[simp] theorem writeTarget_r (s : State) (t : Target) (v : Word) : (s.writeTarget t v).r = s.r := by
  rcases writeTarget_cases s t v with ⟨-, h⟩ | ⟨-, r, -, h⟩ | ⟨-, -, h⟩ | ⟨-, b, k, -, -, h⟩ <;> rw [h]
  · rfl
  · cases r
    case status => simp only [State.writeReg, State.writeStatus]; split <;> rfl
    all_goals rfl
  · rfl

/-- A HOST access that goes on is, but for the HOST's own program and replies, nothing or a valid write. -/
theorem hostAccess_read_or_write {op : HostOp} {s t : State} (h : hostAccess op s = .next t) :
    ∃ u, (u = s ∨ ∃ g v, u = s.writeTarget g v) ∧ t = { u with prog := t.prog, replies := t.replies } := by
  rcases hostAccess_cases h with ⟨_, _, g, -, -, rfl⟩ | ⟨_, _, v, g, -, -, rfl⟩ | ⟨-, rfl | rfl⟩
  · exact ⟨s, .inl rfl, rfl⟩
  · exact ⟨_, .inr ⟨g, v, rfl⟩, rfl⟩
  · exact ⟨s, .inl rfl, rfl⟩
  · exact ⟨s, .inl rfl, rfl⟩

theorem hostAccess_cfg {op : HostOp} {s t : State} (h : hostAccess op s = .next t) : t.cfg = s.cfg := by
  obtain ⟨u, rfl | ⟨g, v, rfl⟩, ht⟩ := hostAccess_read_or_write h <;> rw [ht]
  exact (writeTarget_environment s g v).1

theorem hostAccess_r {op : HostOp} {s t : State} (h : hostAccess op s = .next t) : t.r = s.r := by
  obtain ⟨u, rfl | ⟨g, v, rfl⟩, ht⟩ := hostAccess_read_or_write h <;> rw [ht]
  exact writeTarget_r s g v

/-! ### What a command leaves alone -/

/-- Every command goes on, in every state (60_exceptions.md R130). -/
theorem exec_next (i : Instr) (s : State) : ∃ t, exec i s = .next t := by
  cases i with
  | crcLoad => exact ⟨_, rfl⟩
  | crcFeedByte b => exact ⟨_, rfl⟩
  | crcFeedWordLe => exact ⟨_, rfl⟩
  | crcFeedBuf => simp only [exec, execCrcFeedBuf]; split <;> exact ⟨_, rfl⟩
  | frameEncode => simp only [exec, execFrameEncode]; split <;> exact ⟨_, rfl⟩
  | frameDecode =>
    simp only [exec, execFrameDecode]
    split
    · exact ⟨_, rfl⟩
    · split
      · exact ⟨_, rfl⟩
      · split <;> exact ⟨_, rfl⟩

/-- No command writes an operand register, RX_LEN or a parameter. -/
theorem exec_operands {i : Instr} {s t : State} (h : exec i s = .next t) :
    t.cfg = s.cfg ∧ t.crcSeed = s.crcSeed ∧ t.crcWord = s.crcWord ∧ t.crcSpan = s.crcSpan ∧
      t.frmHdr = s.frmHdr ∧ t.rxLen = s.rxLen := by
  rcases exec_cases h with ⟨c, rfl⟩ | ⟨-, -, v, rfl⟩ | ⟨-, -, rfl⟩ | ⟨-, a, b, rfl⟩ | ⟨-, a, b, c, d, rfl⟩ <;> simp

/-- Bytes stored into TXBUF, however many, lie above every byte of PBUF's window. -/
theorem State.bufByte_pbuf_storeBytes_txbuf (s : State) (i : Nat) (bs : List Byte) {j : Nat} (hj : j < 0x20000) :
    (s.storeBytes .txbuf i bs).bufByte .pbuf j = s.bufByte .pbuf j := by
  rw [State.bufByte_storeBytes, if_neg]
  simp only [Buf.base]; omega

/-- No command writes PBUF. -/
theorem exec_pbuf {i : Instr} {s t : State} (h : exec i s = .next t) {j : Nat} (hj : j < 0x20000) :
    t.bufByte .pbuf j = s.bufByte .pbuf j := by
  rcases exec_cases h with ⟨c, rfl⟩ | ⟨-, -, v, rfl⟩ | ⟨-, -, rfl⟩ | ⟨-, a, b, rfl⟩ | ⟨-, a, b, c, d, rfl⟩
  case inr.inr.inl => exact State.bufByte_pbuf_storeBytes_txbuf s 0 _ hj
  all_goals rfl

/-! ### What a step leaves alone -/

/-- A reset turn is the reset event (70_reset_and_hazards.md R150). -/
theorem step_reset {s : State} {d : InitBuf} {more : List Turn} (h : s.sched = .reset d :: more) :
    step s = .next (State.afterReset d { s with sched := more }) := by
  unfold step; rw [h]

theorem engineStep_cfg {s t : State} (h : engineStep s = .next t) : t.cfg = s.cfg := by
  rcases engineStep_cases h with ⟨-, rfl⟩ | ⟨i, -, hi⟩
  · rfl
  · exact (exec_operands hi).1

/-- No step changes a parameter. -/
theorem step_cfg {s t : State} (h : step s = .next t) : t.cfg = s.cfg := by
  rcases step_cases h with ⟨more, op, rest, -, ha⟩ | ⟨more, -, he⟩ | ⟨more, d, -, rfl⟩ | ⟨more, rfl⟩
  · exact (hostAccess_cfg ha :)
  · exact (engineStep_cfg he :)
  · rfl
  · rfl

/-- A step that is neither the ENGINE's nor a reset leaves R. -/
theorem step_r_of_no_engine_no_reset {s t : State} (he : ∀ more, ¬ s.engineNext more)
    (hr : ∀ d more, s.sched ≠ .reset d :: more) (h : step s = .next t) : t.r = s.r := by
  rcases step_cases h with ⟨more, op, rest, -, ha⟩ | ⟨more, hn, -⟩ | ⟨more, d, hs, -⟩ | ⟨more, rfl⟩
  · exact (hostAccess_r ha :)
  · exact absurd hn (he more)
  · exact absurd hs (hr d more)
  · rfl

/-! ### What a command feeds to the running CRC -/

/-- The fold over a concatenation is the folds one after the other (40_crc.md R83). -/
theorem crcFold_append (r : Word) (a b : List Byte) : crcFold r (a ++ b) = crcFold (crcFold r a) b := by
  induction a generalizing r with
  | nil => rfl
  | cons x a ih => exact ih (crcStep r x)

/-- A command other than CRC_LOAD folds the bytes it feeds into R. -/
theorem exec_r {i : Instr} {s t : State} (hi : i ≠ .crcLoad) (h : exec i s = .next t) :
    t.r = crcFold s.r (fedBytes i s) := by
  cases i with
  | crcLoad => exact absurd rfl hi
  | crcFeedByte b => cases h; rfl
  | crcFeedWordLe => cases h; rfl
  | crcFeedBuf =>
    rcases execCrcFeedBuf_cases h with ⟨hout, rfl⟩ | ⟨hin, rfl⟩
    · simp only [fedBytes, if_neg (Nat.not_le.2 hout)]; rfl
    · simp only [fedBytes, if_pos hin]; rfl
  | frameEncode =>
    rcases execFrameEncode_cases h with ⟨-, rfl⟩ | ⟨-, rfl⟩ <;> rfl
  | frameDecode =>
    rcases execFrameDecode_cases h with ⟨-, rfl⟩ | ⟨-, -, rfl⟩ | ⟨-, -, -, rfl⟩ | ⟨-, -, -, rfl⟩ <;> rfl

theorem State.spanOff_congr {s t : State} (h : t.crcSpan = s.crcSpan) : t.spanOff = s.spanOff := by
  simp only [State.spanOff, h]

theorem State.spanLen_congr {s t : State} (h : t.crcSpan = s.crcSpan) : t.spanLen = s.spanLen := by
  simp only [State.spanLen, h]

/-- CRC_SPAN's fields are too small for a span to reach past PBUF's window. -/
theorem State.span_congr {s t : State} (hs : t.crcSpan = s.crcSpan)
    (hb : ∀ j, j < 0x20000 → t.bufByte .pbuf j = s.bufByte .pbuf j) : t.span = s.span := by
  unfold State.span
  rw [State.spanOff_congr hs, State.spanLen_congr hs]
  refine State.bufBytes_ext fun j hj => hb _ ?_
  have := s.spanOff.isLt
  have := s.spanLen.isLt
  omega

/-- What a command would feed is the same after any command: none writes an operand of a feed. -/
theorem exec_fedBytes {i : Instr} {s t : State} (h : exec i s = .next t) : ∀ j, fedBytes j t = fedBytes j s := by
  obtain ⟨hcfg, -, hword, hspan, -, -⟩ := exec_operands h
  have hdata : t.span = s.span := State.span_congr hspan fun _ hj => exec_pbuf h hj
  intro j
  cases j with
  | crcFeedWordLe => simp only [fedBytes, hword]
  | crcFeedBuf =>
    unfold fedBytes
    rw [State.spanOff_congr hspan, State.spanLen_congr hspan, hcfg, hdata]
  | _ => rfl

/-- A sequence of commands without a CRC_LOAD folds all the bytes they feed into R. -/
theorem execAll_r (is : List Instr) (s : State) (hl : ∀ i ∈ is, i ≠ .crcLoad) :
    ∃ t, execAll is s = .next t ∧ t.r = crcFold s.r (is.flatMap fun i => fedBytes i s) := by
  induction is generalizing s with
  | nil => exact ⟨s, rfl, rfl⟩
  | cons i is ih =>
    obtain ⟨hi, hrest⟩ := List.forall_mem_cons.1 hl
    obtain ⟨u, hu⟩ := exec_next i s
    obtain ⟨t, ht, hr⟩ := ih u hrest
    refine ⟨t, by simp only [execAll, hu, ht], ?_⟩
    calc t.r = crcFold u.r (is.flatMap fun j => fedBytes j u) := hr
      _ = crcFold (crcFold s.r (fedBytes i s)) (is.flatMap fun j => fedBytes j s) := by
        simp only [exec_r hi hu, exec_fedBytes hu]
      _ = crcFold s.r ((i :: is).flatMap fun j => fedBytes j s) := by
        rw [List.flatMap_cons, crcFold_append]

/-! ### The ghost record beside a run -/

/-- The record's seed and bytes are those R was computed from. -/
def Fed.Describes (g : Fed) (s : State) : Prop := s.r = crcFold (g.seed ^^^ crcInvert) g.data

/-- The record describes a state exactly when CRC_VALUE reads the record's CRC. -/
theorem Fed.describes_iff (g : Fed) (s : State) : g.Describes s ↔ s.readReg .crcValue = crc32 g.seed g.data :=
  (s.readReg_crcValue_eq_crc32 g.seed g.data).symm

theorem Fed.command_crcLoad (g : Fed) (s : State) : g.command .crcLoad s = { seed := s.crcSeed, data := [] } := rfl

theorem Fed.command_feed (g : Fed) (s : State) {i : Instr} (hi : i ≠ .crcLoad) :
    g.command i s = { g with data := g.data ++ fedBytes i s } := if_neg hi

/-- The record kept by a command describes the state it leaves. -/
theorem Fed.command_describes {g : Fed} {i : Instr} {s t : State} (hg : g.Describes s) (h : exec i s = .next t) :
    (g.command i s).Describes t := by
  by_cases hi : i = .crcLoad
  · subst hi; cases h; rfl
  · unfold Fed.Describes at hg ⊢
    rw [exec_r hi h, hg, Fed.command_feed g s hi, crcFold_append]

theorem Fed.engine_legal (g : Fed) {s : State} {i : Instr} (hb : s.busy = true) (hd : decode s.cmdLatch = .ok i) :
    g.engine s = g.command i s := by
  simp only [Fed.engine, hb, hd, if_true]

theorem Fed.engine_illegal (g : Fed) {s : State} {e : IllegalWord} (hd : decode s.cmdLatch = .error e) :
    g.engine s = g := by
  simp only [Fed.engine, hd, ite_self]

/-- The record kept by an ENGINE step describes the state it leaves. -/
theorem Fed.engine_describes {g : Fed} {s t : State} (hb : s.busy = true) (hg : g.Describes s)
    (h : engineStep s = .next t) : (g.engine s).Describes t := by
  rcases engineStep_cases h with ⟨⟨e, hd⟩, rfl⟩ | ⟨i, hd, hi⟩
  · rw [Fed.engine_illegal g hd]; exact hg
  · rw [Fed.engine_legal g hb hd]; exact Fed.command_describes hg hi

/-- The turns still to come are no operand of the ENGINE's step. -/
theorem Fed.event_engine (g : Fed) {s : State} {more : List Turn} (h : s.engineNext more) :
    g.event s = g.engine { s with sched := more } := by
  obtain ⟨-, hs | ⟨hs, -⟩⟩ := h <;> simp only [Fed.event, hs] <;> rfl

theorem Fed.event_reset (g : Fed) {s : State} {d : InitBuf} {more : List Turn} (h : s.sched = .reset d :: more) :
    g.event s = { seed := 0, data := [] } := by
  simp only [Fed.event, h]

/-- An event that is neither the ENGINE's step nor a reset leaves the record. -/
theorem Fed.event_of_no_engine_no_reset (g : Fed) {s : State} (he : ∀ more, ¬ s.engineNext more)
    (hr : ∀ d more, s.sched ≠ .reset d :: more) : g.event s = g := by
  match hs : s.sched with
  | .host :: more => simp only [Fed.event, hs]
  | .reset d :: more => exact absurd hs (hr d more)
  | .engine :: more =>
    have hb : s.busy = false := Bool.eq_false_iff.2 fun hb => he more ⟨hb, .inl hs⟩
    simp only [Fed.event, hs, Fed.engine, hb, Bool.false_eq_true, if_false]
  | [] =>
    have hb : s.busy = false := Bool.eq_false_iff.2 fun hb => he [] ⟨hb, .inr ⟨hs, rfl⟩⟩
    simp only [Fed.event, hs, Fed.engine, hb, Bool.false_eq_true, if_false]

/-- The record kept by a step describes the state it leaves. -/
theorem Fed.event_describes {g : Fed} {s t : State} (hg : g.Describes s) (h : step s = .next t) :
    (g.event s).Describes t := by
  by_cases he : ∃ more, s.engineNext more
  · obtain ⟨more, hn⟩ := he
    rw [step_engine hn] at h
    rw [Fed.event_engine g hn]
    exact Fed.engine_describes hn.1 hg h
  · by_cases hr : ∃ d more, s.sched = .reset d :: more
    · obtain ⟨d, more, hs⟩ := hr
      rw [step_reset hs] at h
      rw [Fed.event_reset g hs]
      cases h; rfl
    · push Not at he hr
      rw [Fed.event_of_no_engine_no_reset g he hr]
      exact (step_r_of_no_engine_no_reset he hr h).trans hg

theorem fedAlong_succ {s t : State} (k : Nat) (g : Fed) (h : step s = .next t) :
    fedAlong (k + 1) s g = fedAlong k t (g.event s) := by
  simp only [fedAlong, h]

/-- The record kept along a run describes the state it ends in. -/
theorem fedAlong_describes {k : Nat} {s t : State} {g : Fed} (hg : g.Describes s) (h : goodRun k s t) :
    (fedAlong k s g).Describes t := by
  induction k generalizing s g with
  | zero => obtain rfl := (goodRun_zero s t).1 h; exact hg
  | succ k ih =>
    obtain ⟨u, hu, hrun⟩ := (goodRun_succ k s t).1 h
    rw [fedAlong_succ k g hu]
    exact ih (Fed.event_describes hg hu) hrun

/-! ### The statements -/

/-- After a CRC_LOAD, CRC_VALUE reads the CRC of CRC_SEED and the bytes the commands after it feed. -/
theorem execAll_crcLoad_crcValue (s : State) (is : List Instr) (hl : ∀ i ∈ is, i ≠ .crcLoad) :
    ∃ t, execAll (.crcLoad :: is) s = .next t ∧
      t.readReg .crcValue = crc32 s.crcSeed (is.flatMap fun i => fedBytes i s) := by
  obtain ⟨u, hu⟩ := exec_next .crcLoad s
  have hur : u.r = s.crcSeed ^^^ crcInvert := by cases hu; rfl
  obtain ⟨t, ht, hr⟩ := execAll_r is u hl
  refine ⟨t, by simp only [execAll, hu, ht], (t.readReg_crcValue_eq_crc32 _ _).2 ?_⟩
  simp only [hr, hur, exec_fedBytes hu]

/-- The ENGINE's step of a CRC_LOAD leaves CRC_VALUE reading the CRC of CRC_SEED and no bytes. -/
theorem step_crcLoad_crcValue {s t : State} {more : List Turn} (hn : s.engineNext more)
    (hd : decode s.cmdLatch = .ok .crcLoad) (h : step s = .next t) :
    t.readReg .crcValue = crc32 s.crcSeed [] := by
  rw [step_engine hn, engineStep_legal (s := { s with sched := more }) hd] at h
  cases h; rfl

/-- Settles O15: R stays the fold of the bytes fed since the last load, by induction over the commands and
over the run; only ENGINE steps and resets move R and the record (10_state.md R19). -/
theorem crcValueReadsTheRunningCrc : Obligations.CrcValueReadsTheRunningCrc := by
  refine ⟨State.readReg_crcValue, execAll_crcLoad_crcValue, fun k s t g hg h => ?_,
    fun s t rest hb hs hd h => step_crcLoad_crcValue ⟨hb, .inl hs⟩ hd h,
    fun s v hb => writeTarget_idle hb _ v, rfl⟩
  rw [← Fed.describes_iff] at hg ⊢
  exact fedAlong_describes hg h

/-- Settles O43: CAP is a function of the configuration, which no step changes (10_state.md R24). -/
theorem capReadsMaxPayloadAlways : Obligations.CapReadsMaxPayloadAlways := by
  refine ⟨fun s hwf => ?_, fun s t h => ?_, fun s v hb => writeTarget_idle hb _ v⟩
  · obtain ⟨-, hmax, -⟩ := hwf
    exact ⟨s.readReg_cap_toNat hmax, s.readReg_cap_high⟩
  · exact ⟨step_cfg h, State.readReg_cap_congr (step_cfg h)⟩

/-- Settles O38: an idle CMD write latches any word; the ENGINE decides later what the word means
(10_state.md R14). -/
theorem cmdWriteLatchesAnyWord : Obligations.CmdWriteLatchesAnyWord := by
  refine fun s v => ⟨fun hb => writeTarget_idle hb _ v, fun hb => writeTarget_busy hb _ v, fun hb hill => ?_, rfl⟩
  rw [writeTarget_idle hb]
  cases hd : decode v with
  | ok i => exact absurd hd (hill i)
  | error e => exact engineStep_illegal (s := s.writeIdle (.reg .cmd) v) hd

/-- Settles O40: bit 9 of an idle STATUS write decides alone, and a busy write only sets WERR
(10_state.md R17). -/
theorem statusWriteClearsWriteErrorOnly : Obligations.StatusWriteClearsWriteErrorOnly := by
  refine fun s v => ⟨fun hb h9 => ?_, fun hb h9 => ?_, fun hb => writeTarget_busy hb _ v⟩
  · rw [writeTarget_idle hb]; exact if_pos h9
  · rw [writeTarget_idle hb]; exact if_neg (Bool.eq_false_iff.1 h9)

end Sys2Proof.Machine

/-! SUPPORT. The bus: which accesses are valid, and what one HOST access reads, writes or leaves alone (20_memory.md R42 to R47). -/

namespace Sys2Proof.Machine

/-! ### What a valid access reaches -/

/-- Every byte index of a buffer lies in its window (00_scope.md R3, 20_memory.md R41). -/
theorem Buf.capacity_lt_window {c : Config} (h : c.maxPayload ≤ 65535) (b : Buf) : b.capacity c < 0x20000 := by
  cases b <;> simp only [Buf.capacity] <;> omega

/-- The offsets a target can stand at: a register's, or one of a buffer's window below the capacity. -/
theorem Target.offset_in_map {c : Config} {t : Target} (h : ∀ b k, t = .buf b k → k < b.capacity c) :
    t.offset ≤ 0x38 ∨ inBuffers c t.offset := by
  cases t with
  | reg r => exact .inl r.offset_le
  | buf b k =>
    have hk := h b k rfl
    right
    cases b
    · exact .inl ⟨Nat.le_add_right _ _, Nat.add_lt_add_left hk _⟩
    · exact .inr (.inl ⟨Nat.le_add_right _ _, Nat.add_lt_add_left hk _⟩)
    · exact .inr (.inr ⟨Nat.le_add_right _ _, Nat.add_lt_add_left hk _⟩)

/-- An aligned offset of a buffer byte is a valid access. -/
theorem busTarget_of_window {c : Config} (hmax : c.maxPayload ≤ 65535) (b : Buf) {off : Nat} (ha : off % 4 = 0)
    (hlo : b.base ≤ off) (hhi : off < b.base + b.capacity c) : ∃ t, busTarget c 4 off = .ok t := by
  obtain ⟨k, rfl⟩ := Nat.exists_eq_add_of_le hlo
  have hk : k < b.capacity c := by omega
  have hb : b.base % 4 = 0 := by cases b <;> rfl
  exact ⟨_, busTarget_buf c b (by omega) hk (hk.trans (Buf.capacity_lt_window hmax b))⟩

/-- The valid accesses: words, aligned, at a register or at a buffer byte (20_memory.md R42, R43). -/
theorem busTarget_isOk_iff {c : Config} (hmax : c.maxPayload ≤ 65535) (size off : Nat) :
    (∃ t, busTarget c size off = .ok t) ↔ size = 4 ∧ off % 4 = 0 ∧ (off ≤ 0x38 ∨ inBuffers c off) := by
  constructor
  · rintro ⟨t, ht⟩
    obtain ⟨hsize, ha, rfl, hcap⟩ := busTarget_ok ht
    exact ⟨hsize, ha, Target.offset_in_map hcap⟩
  · rintro ⟨rfl, ha, hreg | ⟨hlo, hhi⟩ | ⟨hlo, hhi⟩ | ⟨hlo, hhi⟩⟩
    · obtain ⟨r, hr⟩ := Reg.ofOffset_of_aligned ha hreg
      obtain rfl := Reg.offset_of_ofOffset hr
      exact ⟨_, busTarget_reg c r⟩
    · exact busTarget_of_window hmax .pbuf ha hlo hhi
    · exact busTarget_of_window hmax .txbuf ha hlo hhi
    · exact busTarget_of_window hmax .rxbuf ha hlo hhi

/-! ### What the next HOST access does -/

@[simp] theorem State.readTarget_pop (s : State) (rest : List HostOp) (more : List Turn) (g : Target) :
    (s.pop rest more).readTarget g = s.readTarget g := by
  cases g with
  | reg r => cases r <;> rfl
  | buf b k => rfl

theorem busRead_error {s : State} {size off : Nat} {f : Fault} (h : busTarget s.cfg size off = .error f) :
    s.busRead size off = { error := true, data := 0 } := by
  simp only [State.busRead, h]

theorem busRead_ok {s : State} {size off : Nat} {g : Target} (h : busTarget s.cfg size off = .ok g) :
    s.busRead size off = { error := false, data := s.readTarget g } := by
  simp only [State.busRead, h]

theorem busWrite_error {s : State} {size off : Nat} {f : Fault} (h : busTarget s.cfg size off = .error f) (v : Word) :
    s.busWrite size off v = s := by
  simp only [State.busWrite, h]

theorem busWrite_ok {s : State} {size off : Nat} {g : Target} (h : busTarget s.cfg size off = .ok g) (v : Word) :
    s.busWrite size off v = s.writeTarget g v := by
  simp only [State.busWrite, h]

/-- A read or write that is a bus error stops the HOST with that fault. -/
theorem hostAccess_error {s : State} {size off : Nat} {f : Fault} {op : HostOp} (hoff : off < fceSpan)
    (h : busTarget s.cfg size off = .error f)
    (hop : op = .read size (s.cfg.base + off) ∨ ∃ v, op = .write size (s.cfg.base + off) v) :
    hostAccess op s = .fault f := by
  obtain rfl | ⟨v, rfl⟩ := hop <;> simp only [hostAccess, Config.offset_base_add _ hoff, busFault, h]

theorem hostAccess_read {s : State} {size off : Nat} {g : Target} (hoff : off < fceSpan)
    (h : busTarget s.cfg size off = .ok g) :
    hostAccess (.read size (s.cfg.base + off)) s = .next (s.reply (s.readTarget g)) := by
  simp only [hostAccess, Config.offset_base_add _ hoff, busFault, h, busRead_ok h]

theorem hostAccess_write {s : State} {size off : Nat} {g : Target} (hoff : off < fceSpan)
    (h : busTarget s.cfg size off = .ok g) (v : Word) :
    hostAccess (.write size (s.cfg.base + off) v) s = .next (s.writeTarget g v) := by
  simp only [hostAccess, Config.offset_base_add _ hoff, busFault, h, busWrite_ok h]

/-- A valid read as the machine's next event. -/
theorem step_read {s : State} {size off : Nat} {g : Target} {rest : List HostOp} {more : List Turn}
    (hoff : off < fceSpan) (h : busTarget s.cfg size off = .ok g)
    (hn : s.hostNext (.read size (s.cfg.base + off)) rest more) :
    step s = .next ((s.pop rest more).reply (s.readTarget g)) := by
  rw [step_host hn, ← s.readTarget_pop rest more]
  exact hostAccess_read (s := s.pop rest more) hoff h

/-- A valid write as the machine's next event. -/
theorem step_write {s : State} {size off : Nat} {v : Word} {g : Target} {rest : List HostOp} {more : List Turn}
    (hoff : off < fceSpan) (h : busTarget s.cfg size off = .ok g)
    (hn : s.hostNext (.write size (s.cfg.base + off) v) rest more) :
    step s = .next ((s.pop rest more).writeTarget g v) := by
  rw [step_host hn]
  exact hostAccess_write (s := s.pop rest more) hoff h v

/-! ### What STATUS and a buffer word read -/

/-- STATUS's fields, and 0 in its reserved bits (10_state.md R15). -/
theorem State.statusWord_fields (s : State) :
    s.statusWord.extractLsb' 0 4 = s.code.bits ∧ s.statusWord.getLsbD 8 = s.busy ∧
      s.statusWord.getLsbD 9 = s.werr ∧ s.statusWord &&& 0xFFFFFCF0 = 0 := by
  unfold State.statusWord
  generalize s.code = c, s.busy = b, s.werr = w
  revert w b
  cases c <;> decide

/-- Byte i of a little-endian word is the i-th byte it was made of. -/
theorem le32_byte (f : Nat → Byte) {i : Nat} (hi : i < 4) :
    (le32 (f 0) (f 1) (f 2) (f 3)).extractLsb' (8 * i) 8 = f i := by
  interval_cases i
  · exact le32_byte0 ..
  · exact le32_byte1 ..
  · exact le32_byte2 ..
  · exact le32_byte3 ..

/-- Byte i of a word read from a buffer is the buffer's byte k + i, or 0 past the capacity (20_memory.md R45). -/
theorem State.readTarget_buf_byte (s : State) (b : Buf) (k : Nat) {i : Nat} (hi : i < 4) :
    (s.readTarget (.buf b k)).extractLsb' (8 * i) 8 =
      if k + i < b.capacity s.cfg then s.bufByte b (k + i) else 0 :=
  le32_byte (fun j => s.byteOr b (k + j)) hi

/-! ### What an idle write leaves -/

/-- A STATUS write decides WERR by its bit 9 and leaves everything else (10_state.md R17). -/
theorem State.writeStatus_eq (s : State) (v : Word) :
    s.writeStatus v = { s with werr := if v.getLsbD 9 then false else s.werr } := by
  unfold State.writeStatus
  split <;> rfl

/-- A read-only register ignores a write (20_memory.md R46). -/
theorem State.writeReg_readOnly (s : State) {r : Reg} (v : Word)
    (hr : r ∈ [Reg.crcValue, .txLen, .txCrc, .rxHdr, .rxCrc, .rxCalc, .rxAck, .cap]) : s.writeReg r v = s := by
  fin_cases hr <;> rfl

/-- An idle write to PBUF or RXBUF is a word into that window. -/
theorem State.writeIdle_buf (s : State) {b : Buf} (hb : b ≠ .txbuf) (k : Nat) (v : Word) :
    s.writeIdle (.buf b k) v = s.writeWindow b k v := by
  cases b with
  | txbuf => exact absurd rfl hb
  | pbuf => rfl
  | rxbuf => rfl

theorem bytesLE32_getD (v : Word) {j : Nat} (hj : j < 4) : (bytesLE32 v).getD j 0 = v.extractLsb' (8 * j) 8 := by
  interval_cases j <;> rfl

/-- A word stored at k replaces the bytes k .. k+3 of its buffer, as far as the buffer goes. -/
theorem State.bufByte_writeWindow_same (s : State) (b : Buf) (k : Nat) (v : Word) {i : Nat}
    (hi : i < b.capacity s.cfg) :
    (s.writeWindow b k v).bufByte b i =
      if k ≤ i ∧ i < k + 4 then v.extractLsb' (8 * (i - k)) 8 else s.bufByte b i := by
  unfold State.writeWindow
  rw [State.bufByte_storeBytes_same, List.length_take, bytesLE32_length]
  by_cases h : k ≤ i ∧ i < k + 4
  · rw [if_pos (by omega), if_pos h, List.getD_eq_getElem?_getD, List.getElem?_take_of_lt (by omega),
      ← List.getD_eq_getElem?_getD, bytesLE32_getD v (by omega)]
  · rw [if_neg (by omega), if_neg h]

/-- The bytes past the capacity being dropped, a word stored in one buffer leaves the others. -/
theorem State.bufByte_writeWindow_other (s : State) (hmax : s.cfg.maxPayload ≤ 65535) {b b' : Buf} (hb : b' ≠ b)
    {k : Nat} (hk : k < b.capacity s.cfg) (v : Word) {i : Nat} (hi : i < b'.capacity s.cfg) :
    (s.writeWindow b k v).bufByte b' i = s.bufByte b' i := by
  have hcap := Buf.capacity_lt_window hmax b
  have hcap' := Buf.capacity_lt_window hmax b'
  refine State.bufByte_storeBytes_other s hb ?_ (hi.trans hcap')
  rw [List.length_take]
  omega

/-- Every buffer byte after a word was stored at k (20_memory.md R46). -/
theorem State.bufByte_writeWindow (s : State) (hmax : s.cfg.maxPayload ≤ 65535) (b : Buf) {k : Nat}
    (hk : k < b.capacity s.cfg) (v : Word) (b' : Buf) {i : Nat} (hi : i < b'.capacity s.cfg) :
    (s.writeWindow b k v).bufByte b' i =
      if b' = b ∧ k ≤ i ∧ i < k + 4 then v.extractLsb' (8 * (i - k)) 8 else s.bufByte b' i := by
  by_cases hb : b' = b
  · subst hb
    rw [s.bufByte_writeWindow_same b' k v hi]
    simp only [true_and]
  · rw [if_neg (fun h => hb h.1), s.bufByte_writeWindow_other hmax hb hk v hi]

/-! ### The statements -/

/-- Settles O30: a target's offset lies in the map, and every aligned offset of the map has a target
(20_memory.md R42, R43). -/
theorem validAccessesAreAlignedWordsOfTheMap : Obligations.ValidAccessesAreAlignedWordsOfTheMap := by
  refine ⟨fun c size off hwf _ => ?_, rfl, rfl, rfl, rfl, busTarget_reg, fun c b k hwf hk hcap => ?_⟩
  · obtain ⟨-, hmax, -⟩ := hwf
    exact busTarget_isOk_iff hmax size off
  · obtain ⟨-, hmax, -⟩ := hwf
    exact busTarget_buf c b hk hcap (hcap.trans (Buf.capacity_lt_window hmax b))

/-- Settles O31: the target is looked up before anything else, BUSY included (20_memory.md R44). -/
theorem busErrorChangesNothingAndIsAHostFault : Obligations.BusErrorChangesNothingAndIsAHostFault := by
  intro s size off f op rest more hoff hf hn hop
  refine ⟨?_, busRead_error hf, busWrite_error hf⟩
  rw [step_host hn]
  exact hostAccess_error (s := s.pop rest more) hoff hf hop

/-- Settles O33: the reply is what the target reads, register by register and byte by byte
(20_memory.md R45). -/
theorem readReturnsItsTargetAndChangesNothing : Obligations.ReadReturnsItsTargetAndChangesNothing := by
  intro s off g rest more hoff hg hn
  have hreg : ∀ r, g = .reg r → s.readTarget g = s.readReg r := by
    rintro r rfl; rfl
  refine ⟨s.readTarget g, step_read hoff hg hn, hreg, hreg .cmd, ?status, hreg .crcSeed, hreg .crcValue,
    hreg .crcWord, hreg .crcSpan, hreg .frmHdr, ?txLen, hreg .txCrc, ?rxLen, hreg .rxHdr, hreg .rxCrc,
    hreg .rxCalc, hreg .rxAck, ?cap, ?buf⟩
  case status => intro h; rw [hreg .status h]; exact s.statusWord_fields
  case txLen => intro h; rw [hreg .txLen h]; exact BitVec.toNat_setWidth_of_le (by decide)
  case rxLen => intro h; rw [hreg .rxLen h]; exact BitVec.toNat_setWidth_of_le (by decide)
  case cap =>
    rintro h ⟨-, hmax, -⟩
    rw [hreg .cap h]
    exact s.readReg_cap_toNat hmax
  case buf => rintro b k rfl i hi; exact s.readTarget_buf_byte b k hi

/-- Settles O35: while BUSY = 1 every valid write only flags the error (20_memory.md R47). -/
theorem busyWriteOnlySetsWriteError : Obligations.BusyWriteOnlySetsWriteError := by
  intro s off v g rest more hoff hg hn hb
  rw [step_write hoff hg hn, writeTarget_busy (s := s.pop rest more) hb]
  rfl

/-- Settles O34: an idle write does its target's rule on the state the access leaves behind; in a buffer
it reaches the bytes k .. k+3 below the capacity (20_memory.md R46). -/
theorem idleWriteDoesItsTargetsRule : Obligations.IdleWriteDoesItsTargetsRule := by
  intro s off v g rest more hwf hoff hg hn hb
  obtain ⟨-, hmax, -⟩ := hwf
  obtain ⟨-, -, -, hcap⟩ := busTarget_ok hg
  refine ⟨(s.pop rest more).writeIdle g v, ?_, ?_, ?_, ?_, ?_, ?_, ?_, ?_, ?_, ?_, ?_⟩
  · rw [step_write hoff hg hn, writeTarget_idle (s := s.pop rest more) hb]
  · rintro rfl; rfl
  · rintro rfl; exact (s.pop rest more).writeStatus_eq v
  · rintro rfl; rfl
  · rintro rfl; rfl
  · rintro rfl; rfl
  · rintro rfl; rfl
  · rintro rfl
    rw [← BitVec.setWidth_eq_extractLsb' (by decide)]
    rfl
  · rintro r rfl hr; exact (s.pop rest more).writeReg_readOnly v hr
  · rintro k rfl; rfl
  · rintro b k rfl htx
    rw [State.writeIdle_buf _ htx]
    exact ⟨rfl, fun b' i hi => (s.pop rest more).bufByte_writeWindow hmax b (hcap b k rfl) v b' hi⟩

end Sys2Proof.Machine

/-! SUPPORT. The decoder against its table: which word selects which row, and what the fields of a legal word are (30_encoding.md R60 to R64). -/

namespace Sys2Proof

/-! ### The rows of the table -/

/-- A row whose mask is all ones is met by its match value alone. -/
theorem and_fullMask_eq_iff {w k : Word} : w &&& 0xFFFFFFFF = k ↔ w = k := by
  rw [show (0xFFFFFFFF : Word) = BitVec.allOnes 32 from rfl, BitVec.and_allOnes]

/-- The six rows exclude one another, so `decode`'s order of trying them does not matter
(30_encoding.md R62, R63). -/
theorem decode_eq_ok_iff (w : Word) (i : Instr) :
    decode w = .ok i ↔ w &&& rowMask i = rowMatch i ∧ ∀ b, i = .crcFeedByte b → b = imm8Field w := by
  constructor
  · intro h
    unfold decode at h
    split_ifs at h with h1 h2 h3 h4 h5 h6 <;> cases h
    · exact ⟨h1, nofun⟩
    · exact ⟨h2, fun b hb => by cases hb; rfl⟩
    · exact ⟨h3, nofun⟩
    · exact ⟨h4, nofun⟩
    · exact ⟨h5, nofun⟩
    · exact ⟨h6, nofun⟩
  · rintro ⟨hrow, himm⟩
    cases i with
    | crcFeedByte b =>
      have hrow : w &&& 0xFFFF00FF = 0x00000002 := hrow
      have hnot : ¬ w &&& 0xFFFFFFFF = 0x00000001 := by
        rw [and_fullMask_eq_iff]
        rintro rfl
        exact absurd hrow (by decide)
      rw [himm b rfl, decode, if_neg hnot, if_pos hrow]
    | _ =>
      obtain rfl := and_fullMask_eq_iff.1 hrow
      rfl

/-! ### The fields of a legal word -/

theorem opField_and (w m : Word) : opField (w &&& m) = opField w &&& opField m := BitVec.extractLsb'_and

theorem rsvdField_and (w m : Word) : rsvdField (w &&& m) = rsvdField w &&& rsvdField m := BitVec.extractLsb'_and

/-- CRC_FEED_BYTE's mask keeps OP and RSVD whole and leaves IMM8 open. -/
theorem fields_of_crcFeedByte_row {w : Word} (h : w &&& 0xFFFF00FF = 0x00000002) :
    rsvdField w = 0 ∧ opField w = 0x02 := by
  constructor
  · calc rsvdField w = rsvdField w &&& rsvdField 0xFFFF00FF := BitVec.and_allOnes.symm
      _ = rsvdField 0x00000002 := by rw [← rsvdField_and, h]
  · calc opField w = opField w &&& opField 0xFFFF00FF := BitVec.and_allOnes.symm
      _ = opField 0x00000002 := by rw [← opField_and, h]

/-- None of the three kinds of 30_encoding.md R64 is a legal word. -/
theorem fields_of_decode_ok {w : Word} {i : Instr} (h : decode w = .ok i) :
    rsvdField w = 0 ∧ opField w ∈ ([0x01, 0x02, 0x03, 0x04, 0x10, 0x11] : List Byte) ∧
      (imm8Field w = 0 ∨ opField w = 0x02) := by
  obtain ⟨hrow, -⟩ := (decode_eq_ok_iff w i).1 h
  cases i with
  | crcFeedByte b =>
    obtain ⟨hrsvd, hop⟩ := fields_of_crcFeedByte_row hrow
    exact ⟨hrsvd, by rw [hop]; decide, .inr hop⟩
  | _ =>
    obtain rfl := and_fullMask_eq_iff.1 hrow
    decide

end Sys2Proof

namespace Sys2Proof.Machine

/-! ### The statements -/

/-- Settles O2: `decode_eq_ok_iff` at each of the six rows (30_encoding.md R62). -/
theorem wordSelectsExactlyItsRow : Obligations.WordSelectsExactlyItsRow := by
  intro w
  have hrow : ∀ i, (∀ b, i ≠ .crcFeedByte b) → (decode w = .ok i ↔ w &&& rowMask i = rowMatch i) := fun i hi =>
    (decode_eq_ok_iff w i).trans (and_iff_left fun b hb => absurd hb (hi b))
  refine ⟨hrow .crcLoad nofun, fun b => ?_, hrow .crcFeedWordLe nofun, hrow .crcFeedBuf nofun,
    hrow .frameEncode nofun, hrow .frameDecode nofun⟩
  rw [decode_eq_ok_iff]
  exact and_congr_right fun _ => ⟨fun h => h b rfl, fun h c hc => by cases hc; exact h⟩

/-- Settles O4: a word of the three kinds decodes to no command, so O38's clause on illegal words says what
its CMD write and its ENGINE step do (30_encoding.md R64). -/
theorem illegalWordReportsAndChangesNothingElse : Obligations.IllegalWordReportsAndChangesNothingElse := by
  intro w s hkind hb
  have hill : ∀ i, decode w ≠ .ok i := by
    intro i hi
    obtain ⟨hrsvd, hop, himm⟩ := fields_of_decode_ok hi
    rcases hkind with h | h | ⟨himm0, hop2⟩
    · exact h hrsvd
    · exact h hop
    · exact himm.elim himm0 hop2
  obtain ⟨hwrite, -, hstep, -⟩ := cmdWriteLatchesAnyWord s w
  have hlatched := hwrite hb
  exact ⟨hlatched, hlatched ▸ hstep hb hill⟩

end Sys2Proof.Machine

/-! SUPPORT. The CRC function against its defining loop and bit steps, and the CRC commands (40_crc.md R80 to R88). -/

namespace Sys2Proof

/-! ### The words of the CRC commands -/

theorem imm8Field_encode_crcFeedByte (b : Byte) : imm8Field (encode (.crcFeedByte b)) = b := by
  apply BitVec.eq_of_getLsbD_eq
  intro i hi
  simp only [imm8Field, encode]
  interval_cases i <;> simp

/-- Every command's own word decodes to it (30_encoding.md R62). -/
theorem decode_encode (i : Instr) : decode (encode i) = .ok i := by
  cases i with
  | crcFeedByte b =>
    obtain ⟨hrow, -, -⟩ := Laws.EncodesIntoRow.crcFeedByte b
    exact (decode_eq_ok_iff _ _).2 ⟨hrow, fun c hc => by cases hc; exact (imm8Field_encode_crcFeedByte b).symm⟩
  | _ => rfl

end Sys2Proof

namespace Sys2Proof.Machine

/-! ### CRC_TABLE against its defining loop -/

/-- The stored table is the loop's, entry by entry (40_crc.md R81). -/
theorem crcTable_eq_map_crcLoopEntry : crcTable = (List.range 256).map crcLoopEntry := by decide +kernel

theorem crcTable_getElem? {n : Nat} (h : n < 256) : crcTable[n]? = some (crcLoopEntry n) := by
  rw [crcTable_eq_map_crcLoopEntry, List.getElem?_map, List.getElem?_range h, Option.map_some]

theorem crcTable_getD {n : Nat} (h : n < 256) : crcTable.getD n 0 = crcLoopEntry n := by
  rw [List.getD_eq_getElem?_getD, crcTable_getElem? h, Option.getD_some]

/-! ### The rounds of the loop: linear, and a plain shift over low zero bits -/

theorem crcRound_eq (c : Word) : crcRound c = (c >>> 1) ^^^ (if c.getLsbD 0 then crcPoly else 0) := by
  unfold crcRound
  split
  · rfl
  · exact (BitVec.xor_zero).symm

theorem crcRound_xor (x y : Word) : crcRound (x ^^^ y) = crcRound x ^^^ crcRound y := by
  have hpoly : ∀ a b : Bool, (if (a ^^ b) then crcPoly else 0) =
      (if a then crcPoly else 0) ^^^ (if b then crcPoly else 0) := by decide
  simp only [crcRound_eq, BitVec.ushiftRight_xor_distrib, BitVec.getLsbD_xor, hpoly]
  ac_rfl

theorem crcRound_iterate_xor (n : Nat) (x y : Word) :
    crcRound^[n] (x ^^^ y) = crcRound^[n] x ^^^ crcRound^[n] y := by
  induction n generalizing x y with
  | zero => rfl
  | succ n ih => simp only [Function.iterate_succ_apply, crcRound_xor, ih]

/-- While the bits that leave are 0, no round brings the polynomial in. -/
theorem crcRound_iterate_of_low_zero (n : Nat) (x : Word) (h : ∀ i < n, x.getLsbD i = false) :
    crcRound^[n] x = x >>> n := by
  induction n with
  | zero => exact (BitVec.ushiftRight_zero x).symm
  | succ n ih =>
    have hbit : (x >>> n).getLsbD 0 = false := by
      rw [BitVec.getLsbD_ushiftRight]; exact h n (Nat.lt_succ_self n)
    rw [Function.iterate_succ_apply', ih fun i hi => h i (Nat.lt_succ_of_lt hi), crcRound, hbit,
      BitVec.shiftRight_add]
    rfl

/-- Eight rounds look the low byte up in the table and shift the rest out (40_crc.md R82). -/
theorem crcRound_iterate_eight (x : Word) :
    crcRound^[8] x = crcTable.getD (x &&& 0xFF).toNat 0 ^^^ (x >>> 8) := by
  have hindex : (x &&& 0xFF).toNat < 256 := by
    rw [BitVec.toNat_and]
    exact Nat.lt_of_le_of_lt Nat.and_le_right (by decide)
  have hentry : crcRound^[8] (x &&& 0xFF) = crcTable.getD (x &&& 0xFF).toNat 0 := by
    rw [crcTable_getD hindex, crcLoopEntry, BitVec.ofNat_toNat, BitVec.setWidth_eq]
  have hones : ∀ i < 8, (0xFF#32).getLsbD i = true := by decide
  have hrest : crcRound^[8] (x ^^^ (x &&& 0xFF)) = x >>> 8 := by
    rw [crcRound_iterate_of_low_zero 8 _ fun i hi => by simp [hones i hi],
      BitVec.ushiftRight_xor_distrib, BitVec.ushiftRight_and_distrib]
    simp
  calc crcRound^[8] x = crcRound^[8] ((x &&& 0xFF) ^^^ (x ^^^ (x &&& 0xFF))) := by
        rw [BitVec.xor_comm x, ← BitVec.xor_assoc, BitVec.xor_self, BitVec.zero_xor]
    _ = crcTable.getD (x &&& 0xFF).toNat 0 ^^^ (x >>> 8) := by rw [crcRound_iterate_xor, hentry, hrest]

/-! ### The bit steps -/

/-- The register with the input still to come put in: `crcBitStep` keeps the two apart, `crcRound` works on
them together. -/
def crcMerge (p : Word × Byte) : Word := p.1 ^^^ p.2.setWidth 32

/-- One bit step is one round of the loop. -/
theorem crcMerge_crcBitStep (p : Word × Byte) : crcMerge (crcBitStep p) = crcRound (crcMerge p) := by
  have hshift : (p.2 >>> 1).setWidth 32 = (p.2.setWidth 32 : Word) >>> 1 :=
    BitVec.setWidth_ushiftRight (by decide)
  simp only [crcMerge, crcBitStep, crcRound_eq, BitVec.ushiftRight_xor_distrib, hshift]
  rw [BitVec.xor_assoc, BitVec.xor_assoc, BitVec.xor_comm (ite ..)]

theorem crcMerge_crcBitStep_iterate (n : Nat) (p : Word × Byte) :
    crcMerge (crcBitStep^[n] p) = crcRound^[n] (crcMerge p) :=
  Function.Semiconj.iterate_right (f := crcMerge) crcMerge_crcBitStep n p

theorem crcBitStep_iterate_snd (n : Nat) (p : Word × Byte) : (crcBitStep^[n] p).2 = p.2 >>> n := by
  induction n with
  | zero => exact (BitVec.ushiftRight_zero p.2).symm
  | succ n ih => rw [Function.iterate_succ_apply', BitVec.shiftRight_add, ← ih]; rfl

/-- Eight bit steps use the whole byte up, and so are eight rounds from the register with the byte put in. -/
theorem crcBitStep_iterate_eight (r : Word) (b : Byte) :
    (crcBitStep^[8] (r, b)).1 = crcRound^[8] (r ^^^ b.setWidth 32) := by
  have hsnd : (crcBitStep^[8] (r, b)).2 = 0 := by
    rw [crcBitStep_iterate_snd]
    exact BitVec.ushiftRight_eq_zero (Nat.le_refl 8)
  have hmerge := crcMerge_crcBitStep_iterate 8 (r, b)
  rw [crcMerge, hsnd] at hmerge
  exact BitVec.xor_zero.symm.trans hmerge

/-- The byte reaches only the low byte of the register, so the bits a step shifts down are the register's own. -/
theorem crcStep_eq_crcRound_iterate (r : Word) (b : Byte) :
    crcStep r b = crcRound^[8] (r ^^^ b.setWidth 32) := by
  have hout : (b.setWidth 32 : Word) >>> 8 = 0#32 := by
    rw [← BitVec.setWidth_ushiftRight (by decide), BitVec.ushiftRight_eq_zero (Nat.le_refl 8), BitVec.setWidth_zero]
  rw [crcRound_iterate_eight, BitVec.ushiftRight_xor_distrib, hout, BitVec.xor_zero, crcStep]

/-! ### `crc32` -/

/-- Inverting twice is the identity: CRC_VALUE reads back what CRC_LOAD inverted (40_crc.md R84, R85). -/
theorem xor_crcInvert_xor_crcInvert (v : Word) : v ^^^ crcInvert ^^^ crcInvert = v := by
  rw [BitVec.xor_assoc, BitVec.xor_self, BitVec.xor_zero]

/-- Over no data the CRC is its seed, the guard of 40_crc.md R84. -/
theorem crc32_nil (seed : Word) : crc32 seed [] = seed := xor_crcInvert_xor_crcInvert seed

/-- A result is the seed to continue from: the two inversions between cancel (40_crc.md R84). -/
theorem crc32_append (seed : Word) (a b : List Byte) : crc32 seed (a ++ b) = crc32 (crc32 seed a) b := by
  rw [crc32, crc32, crc32, crcFold_append, xor_crcInvert_xor_crcInvert]

/-! ### The CRC commands -/

/-- Feeding commands byte by byte feeds those bytes. -/
theorem flatMap_fedBytes_crcFeedByte (bs : List Byte) (s : State) :
    (bs.map Instr.crcFeedByte).flatMap (fun i => fedBytes i s) = bs := by
  induction bs with
  | nil => rfl
  | cons b bs ih => exact congrArg (b :: ·) ih

/-- R after a CRC_FEED_BYTE for each of some bytes is the fold over them. -/
theorem execAll_crcFeedByte_r (bs : List Byte) (s : State) :
    ∃ t, execAll (bs.map .crcFeedByte) s = .next t ∧ t.r = crcFold s.r bs := by
  obtain ⟨t, ht, hr⟩ := execAll_r (bs.map .crcFeedByte) s fun i hi => by
    obtain ⟨b, -, rfl⟩ := List.mem_map.1 hi
    nofun
  rw [flatMap_fedBytes_crcFeedByte] at hr
  exact ⟨t, ht, hr⟩

/-- A span of no bytes inside PBUF leaves R. -/
theorem execCrcFeedBuf_empty {s : State} (hlen : s.spanLen.toNat = 0) (hoff : s.spanOff.toNat ≤ s.cfg.maxPayload) :
    execCrcFeedBuf s = .next (s.finish .ok) := by
  have hspan : s.span = [] := by rw [State.span, hlen]; rfl
  rw [execCrcFeedBuf_inside (by omega), hspan]
  rfl

/-! ### The statements -/

/-- Settles O7: the stored table is what the loop computes, entry by entry (40_crc.md R81). -/
theorem tableHoldsTheEntriesOfItsLoop : Obligations.TableHoldsTheEntriesOfItsLoop :=
  ⟨crcTable_length, fun _ => crcTable_getElem?⟩

/-- Settles O8: eight bit steps are eight rounds of the loop, and the rounds are linear, so they are the low byte's
table entry against the shift of the rest (40_crc.md R82). -/
theorem tableStepEqualsEightBitSteps : Obligations.TableStepEqualsEightBitSteps := fun r b =>
  ⟨crcStep_eq r b, (crcBitStep_iterate_eight r b).trans (crcStep_eq_crcRound_iterate r b).symm⟩

/-- Settles O9: `crcFold`'s two equations and `crcFold_append` (40_crc.md R83). -/
theorem foldOverConcatenation : Obligations.FoldOverConcatenation :=
  ⟨crcFold_nil, crcFold_cons, crcFold_append⟩

/-- Settles O10: the definition, the guard, the chaining by the fold's concatenation law, and the check value by
computation (40_crc.md R84). -/
theorem crcGuardChainingAndCheckValue : Obligations.CrcGuardChainingAndCheckValue :=
  ⟨fun _ _ => rfl, crc32_nil, fun seed a b => (crc32_append seed a b).symm, by decide +kernel⟩

/-- Settles O11: CRC_VALUE undoes the inversion CRC_LOAD puts on the seed (40_crc.md R85). -/
theorem crcLoadEffect : Obligations.CrcLoadEffect := by
  refine ⟨decode_encode .crcLoad, fun s => ⟨rfl, xor_crcInvert_xor_crcInvert s.crcSeed, fun hseed => ?_⟩⟩
  rw [hseed]
  exact xor_crcInvert_xor_crcInvert s.r

/-- Settles O12: the word is `encode`'s, the effect is R82's step, and the three values are computed
(40_crc.md R86). -/
theorem crcFeedByteEffect : Obligations.CrcFeedByteEffect :=
  ⟨fun b => decode_encode (.crcFeedByte b), fun _ _ => rfl, by decide +kernel, by decide +kernel, by decide +kernel⟩

/-- Settles O13: the effect is the fold over `bytesLE32 CRC_WORD`, and the two values are computed
(40_crc.md R87). -/
theorem crcFeedWordLeEffect : Obligations.CrcFeedWordLeEffect :=
  ⟨decode_encode .crcFeedWordLe, fun _ => rfl, by decide +kernel, by decide +kernel⟩

/-- Settles O14: the two branches of CRC_FEED_BUF, whose fold is the one CRC_FEED_BYTE commands with the span's
bytes make (40_crc.md R88). -/
theorem crcFeedBufEffect : Obligations.CrcFeedBufEffect := by
  refine ⟨decode_encode .crcFeedBuf, ?_⟩
  rintro s _ _ rfl rfl
  refine ⟨execCrcFeedBuf_outside, execCrcFeedBuf_inside, execCrcFeedBuf_empty, fun hin => ?_⟩
  obtain ⟨u, hu, hr⟩ := execAll_crcFeedByte_r s.span s
  refine ⟨_, u, execCrcFeedBuf_inside hin, ?_, hr.symm⟩
  rwa [State.span, State.bufBytes, List.map_map] at hu

end Sys2Proof.Machine

/-! SUPPORT. The wire frame and the frame commands: where a frame's parts stand in a buffer, what encoding one and
decoding one do, and what a flipped bit does to its check (45_frame.md R100 to R118). -/

namespace Sys2Proof.Machine

/-! ### Big-endian bytes and register fields -/

/-- The bytes of a big-endian word are the bytes it was made of. -/
@[simp] theorem bytesBE32_be32 (b0 b1 b2 b3 : Byte) : bytesBE32 (be32 b0 b1 b2 b3) = [b0, b1, b2, b3] := by
  obtain ⟨h0, h1, h2, h3⟩ := be32_inj (be32_bytes (be32 b0 b1 b2 b3))
  simp only [bytesBE32, h0, h1, h2, h3]

theorem bytesBE32_injective {v w : Word} (h : bytesBE32 v = bytesBE32 w) : v = w := by
  simp only [bytesBE32, List.cons.injEq, and_true] at h
  obtain ⟨h0, h1, h2, h3⟩ := h
  rw [← be32_bytes v, ← be32_bytes w, h0, h1, h2, h3]

theorem be16_byte0 (b0 b1 : Byte) : (be16 b0 b1).extractLsb' 8 8 = b0 := by
  apply BitVec.eq_of_getLsbD_eq; intro i hi; unfold be16; interval_cases i <;> simp

theorem be16_byte1 (b0 b1 : Byte) : (be16 b0 b1).extractLsb' 0 8 = b1 := by
  apply BitVec.eq_of_getLsbD_eq; intro i hi; unfold be16; interval_cases i <;> simp

/-- The bytes of a big-endian half are the bytes it was made of. -/
@[simp] theorem bytesBE16_be16 (b0 b1 : Byte) : bytesBE16 (be16 b0 b1) = [b0, b1] := by
  simp only [bytesBE16, be16_byte0, be16_byte1]

theorem bytesBE16_injective {v w : Half} (h : bytesBE16 v = bytesBE16 w) : v = w := by
  simp only [bytesBE16, List.cons.injEq, and_true] at h
  obtain ⟨h0, h1⟩ := h
  rw [← be16_bytes v, ← be16_bytes w, h0, h1]

theorem packFields_byte3 (lo mid : Byte) (hi : Half) :
    (packFields lo mid hi).extractLsb' 24 8 = hi.extractLsb' 8 8 := by
  apply BitVec.eq_of_getLsbD_eq; intro i h; unfold packFields; interval_cases i <;> simp

theorem packFields_byte2 (lo mid : Byte) (hi : Half) :
    (packFields lo mid hi).extractLsb' 16 8 = hi.extractLsb' 0 8 := by
  apply BitVec.eq_of_getLsbD_eq; intro i h; unfold packFields; interval_cases i <;> simp

/-- The four bytes of a register of the layout of RX_HDR and RX_ACK, its half given big-endian
(10_state.md R27, R29). -/
theorem packFields_be16_bytes (lo mid b0 b1 : Byte) :
    (packFields lo mid (be16 b0 b1)).extractLsb' 0 8 = lo ∧
      (packFields lo mid (be16 b0 b1)).extractLsb' 8 8 = mid ∧
      (packFields lo mid (be16 b0 b1)).extractLsb' 24 8 = b0 ∧
      (packFields lo mid (be16 b0 b1)).extractLsb' 16 8 = b1 :=
  ⟨packFields_lo .., packFields_mid .., (packFields_byte3 ..).trans (be16_byte0 ..),
    (packFields_byte2 ..).trans (be16_byte1 ..)⟩

/-! ### Spans of a buffer -/

/-- A span of one byte. -/
@[simp] theorem State.bufBytes_one (s : State) (b : Buf) (i : Nat) : s.bufBytes b i 1 = [s.bufByte b i] := rfl

theorem State.bufBytes_zero (s : State) (b : Buf) (n : Nat) : s.bufBytes b 0 n = (List.range n).map (s.bufByte b) := by
  simp only [State.bufBytes, Nat.zero_add]

theorem State.getElem?_bufBytes_zero (s : State) (b : Buf) {n j : Nat} (h : j < n) :
    (s.bufBytes b 0 n)[j]? = some (s.bufByte b j) := by
  rw [State.bufBytes_zero, List.getElem?_map, List.getElem?_range h, Option.map_some]

/-- What was stored into a buffer is read back from it. -/
theorem State.bufBytes_storeBytes_same (s : State) (b : Buf) (i : Nat) (bs : List Byte) :
    (s.storeBytes b i bs).bufBytes b i bs.length = bs := by
  refine List.ext_getElem (State.bufBytes_length ..) fun j hj hj' => ?_
  rw [State.bufBytes_getElem, State.bufByte_storeBytes_same, if_pos (by omega), Nat.add_sub_cancel_left,
    List.getD_eq_getElem]

/-- The bytes of RXBUF a big-endian word is read from. -/
theorem State.bytesBE32_rxBE32 (s : State) (i : Nat) : bytesBE32 (s.rxBE32 i) = s.bufBytes .rxbuf i 4 :=
  bytesBE32_be32 ..

/-- The bytes of RXBUF a big-endian half is read from. -/
theorem State.bytesBE16_rxBE16 (s : State) (i : Nat) : bytesBE16 (s.rxBE16 i) = s.bufBytes .rxbuf i 2 :=
  bytesBE16_be16 ..

/-! ### The frame's layout -/

theorem frameBody_length (cl mg : Byte) (l : Half) (p : List Byte) : (frameBody cl mg l p).length = 4 + p.length := by
  simp only [frameBody, List.length_append, bytesBE16_length, List.length_cons, List.length_nil]

theorem wireFrame_length (cl mg : Byte) (l : Half) (p : List Byte) : (wireFrame cl mg l p).length = 10 + p.length := by
  simp only [wireFrame, List.length_append, frameBody_length, bytesBE32_length, List.length_cons, List.length_nil]
  omega

/-- A frame is five bytes before the payload and five after it (45_frame.md R100). -/
theorem wireFrame_eq (cl mg : Byte) (l : Half) (p : List Byte) :
    wireFrame cl mg l p = [frameHeader, cl, mg, l.extractLsb' 8 8, l.extractLsb' 0 8] ++
      (p ++ (bytesBE32 (frameCrc cl mg l p) ++ [frameTail])) := by
  simp only [wireFrame, frameBody, bytesBE16, List.append_assoc, List.cons_append, List.nil_append]

theorem wireFrame_getElem?_payload (cl mg : Byte) (l : Half) (p : List Byte) {i : Nat} (hi : i < p.length) :
    (wireFrame cl mg l p)[5 + i]? = p[i]? := by
  rw [wireFrame_eq, List.getElem?_append_right (Nat.le_add_right 5 i), List.getElem?_append_left (by simpa using hi)]
  simp

/-- Behind the payload stand the CRC, big-endian, and the tail. -/
theorem wireFrame_getElem?_trailer (cl mg : Byte) (l : Half) (p : List Byte) (k : Nat) :
    (wireFrame cl mg l p)[5 + p.length + k]? = (bytesBE32 (frameCrc cl mg l p) ++ [frameTail])[k]? := by
  rw [wireFrame_eq, Nat.add_assoc, List.getElem?_append_right (Nat.le_add_right 5 _),
    List.getElem?_append_right (by simp)]
  simp

/-- A buffer that starts with a frame: its sentinels, what its CRC covers, and its CRC. -/
theorem State.parts_of_bufBytes_eq_wireFrame {s : State} {b : Buf} {cl mg : Byte} {l : Half} {p : List Byte}
    (h : s.bufBytes b 0 (10 + p.length) = wireFrame cl mg l p) :
    s.bufByte b 0 = frameHeader ∧ s.bufBytes b 1 (4 + p.length) = frameBody cl mg l p ∧
      s.bufBytes b (5 + p.length) 4 = bytesBE32 (frameCrc cl mg l p) ∧ s.bufByte b (9 + p.length) = frameTail := by
  have hcut : 10 + p.length = 1 + (4 + p.length) + 4 + 1 := by omega
  rw [hcut, State.bufBytes_append, State.bufBytes_append, State.bufBytes_append, wireFrame] at h
  obtain ⟨h, htail⟩ := List.append_inj h (by simp [frameBody_length])
  obtain ⟨h, hcrc⟩ := List.append_inj h (by simp [frameBody_length])
  obtain ⟨hheader, hbody⟩ := List.append_inj h (by simp)
  rw [show 0 + (1 + (4 + p.length)) = 5 + p.length by omega] at hcrc
  rw [show 0 + (1 + (4 + p.length) + 4) = 9 + p.length by omega] at htail
  exact ⟨List.singleton_inj.1 hheader, hbody, hcrc, List.singleton_inj.1 htail⟩

/-- What a frame's CRC covers: class, message, length field and payload. -/
theorem State.parts_of_bufBytes_eq_frameBody {s : State} {b : Buf} {cl mg : Byte} {l : Half} {p : List Byte}
    (h : s.bufBytes b 1 (4 + p.length) = frameBody cl mg l p) :
    s.bufByte b 1 = cl ∧ s.bufByte b 2 = mg ∧ s.bufBytes b 3 2 = bytesBE16 l ∧ s.bufBytes b 5 p.length = p := by
  rw [show 4 + p.length = 1 + 1 + 2 + p.length by omega, State.bufBytes_append, State.bufBytes_append,
    State.bufBytes_append, frameBody] at h
  obtain ⟨h, hpayload⟩ := List.append_inj h (by simp)
  obtain ⟨h, hlen⟩ := List.append_inj h (by simp)
  simp only [State.bufBytes_one, List.cons_append, List.nil_append, List.cons.injEq, and_true] at h
  obtain ⟨hcl, hmg⟩ := h
  exact ⟨hcl, hmg, hlen, hpayload⟩

/-! ### FRAME_ENCODE -/

@[simp] theorem State.payload_length (s : State) : s.payload.length = s.hdrLen.toNat := State.bufBytes_length ..

/-- The 17 bits of TX_LEN and RX_LEN hold the size of every frame. -/
theorem toNat_ofNat_frameSize {n : Nat} (h : n ≤ 65535) : (BitVec.ofNat 17 (10 + n)).toNat = 10 + n := by
  rw [BitVec.toNat_ofNat]
  omega

/-- What FRAME_ENCODE puts into TXBUF is the frame of FRM_HDR and the payload, and nothing else of memory moves
(45_frame.md R105). -/
theorem execFrameEncode_frame {s : State} (hmax : s.hdrLen.toNat ≤ s.cfg.maxPayload) :
    ∃ t, execFrameEncode s = .next t ∧
      t = { s with mem := t.mem, txLen := t.txLen, txCrc := t.txCrc, code := .ok, busy := false } ∧
      t.txLen.toNat = 10 + s.hdrLen.toNat ∧ t.txCrc = frameCrc s.hdrClass s.hdrMsg s.hdrLen s.payload ∧
      t.bufBytes .txbuf 0 (10 + s.hdrLen.toNat) = wireFrame s.hdrClass s.hdrMsg s.hdrLen s.payload ∧
      ∀ a, ¬ (0x40000 ≤ a ∧ a < 0x40000 + (10 + s.hdrLen.toNat)) → Memory.read t.mem a = Memory.read s.mem a := by
  have hlen : (wireFrame s.hdrClass s.hdrMsg s.hdrLen s.payload).length = 10 + s.hdrLen.toNat := by
    rw [wireFrame_length, State.payload_length]
  refine ⟨_, execFrameEncode_fits hmax, rfl, ?_, rfl, ?_, fun a ha => ?_⟩
  · simp only [State.finish_txLen, State.putFrame_txLen, hlen]
    exact toNat_ofNat_frameSize (Nat.le_of_lt_succ s.hdrLen.isLt)
  · rw [← hlen]
    exact State.bufBytes_storeBytes_same s .txbuf 0 _
  · rw [← hlen] at ha
    rw [State.finish_mem, State.putFrame_mem, Memory.read_writeBytes]
    exact if_neg ha

/-! ### FRAME_DECODE -/

/-- RXBUF holding a frame of `rxSize` bytes, whatever its length field: every check passes, and the fields are
the frame's (45_frame.md R115). -/
theorem State.rx_of_wireFrame {s : State} {cl mg : Byte} {l : Half} {p : List Byte}
    (hsize : s.rxSize = 10 + p.length) (h : s.bufBytes .rxbuf 0 (10 + p.length) = wireFrame cl mg l p) :
    s.rxSentinelsOk ∧ s.rxRecv = frameCrc cl mg l p ∧ s.rxCalcCrc = frameCrc cl mg l p ∧
      s.rxFrameHdr = packFields cl mg l ∧ s.bufBytes .rxbuf 5 p.length = p := by
  obtain ⟨hheader, hbody, hcrc, htail⟩ := State.parts_of_bufBytes_eq_wireFrame h
  obtain ⟨hcl, hmg, hlen, hpayload⟩ := State.parts_of_bufBytes_eq_frameBody hbody
  refine ⟨⟨hheader, ?_⟩, ?_, ?_, ?_, hpayload⟩
  · rw [hsize, show 10 + p.length - 1 = 9 + p.length by omega]
    exact htail
  · apply bytesBE32_injective
    rw [State.rxRecv, State.bytesBE32_rxBE32, hsize, show 10 + p.length - 5 = 5 + p.length by omega]
    exact hcrc
  · rw [State.rxCalcCrc, hsize, show 10 + p.length - 6 = 4 + p.length by omega, hbody]
    rfl
  · have hhalf : s.rxBE16 3 = l := bytesBE16_injective ((s.bytesBE16_rxBE16 3).trans hlen)
    rw [State.rxFrameHdr, hcl, hmg, hhalf]

/-- FRAME_DECODE accepts a frame of the right size, whatever its length field (45_frame.md R115). -/
theorem execFrameDecode_of_wireFrame {s : State} {cl mg : Byte} {l : Half} {p : List Byte}
    (hmax : p.length ≤ s.cfg.maxPayload) (hsize : s.rxSize = 10 + p.length)
    (h : s.bufBytes .rxbuf 0 (10 + p.length) = wireFrame cl mg l p) :
    ∃ t, execFrameDecode s = .next t ∧ t.code = .ok ∧ t.rxHdr = packFields cl mg l ∧
      t.rxCrc = frameCrc cl mg l p ∧ t.rxCalc = frameCrc cl mg l p ∧ t.bufBytes .rxbuf 5 p.length = p := by
  obtain ⟨hsent, hrecv, hcalc, hhdr, hpayload⟩ := State.rx_of_wireFrame hsize h
  exact ⟨_, execFrameDecode_good ⟨by omega, by omega⟩ hsent (hrecv.trans hcalc.symm),
    rfl, hhdr, hrecv, hcalc, hpayload⟩

/-- The CRC field received, byte by byte, for a size that check (0) lets through. -/
theorem State.rxRecv_eq {s : State} (h : 10 ≤ s.rxSize) :
    s.rxRecv = be32 (s.bufByte .rxbuf (s.rxSize - 5)) (s.bufByte .rxbuf (s.rxSize - 4))
      (s.bufByte .rxbuf (s.rxSize - 3)) (s.bufByte .rxbuf (s.rxSize - 2)) := by
  rw [State.rxRecv, State.rxBE32, show s.rxSize - 5 + 1 = s.rxSize - 4 by omega,
    show s.rxSize - 5 + 2 = s.rxSize - 3 by omega, show s.rxSize - 5 + 3 = s.rxSize - 2 by omega]

/-- RX_ACK's new value, payload byte by payload byte. -/
theorem State.rxFrameAck_eq (s : State) :
    s.rxFrameAck = packFields (if 10 < s.rxLen.toNat then s.bufByte .rxbuf 5 else 0)
      (if 11 < s.rxLen.toNat then s.bufByte .rxbuf 6 else 0)
      (be16 (if 12 < s.rxLen.toNat then s.bufByte .rxbuf 7 else 0)
        (if 13 < s.rxLen.toNat then s.bufByte .rxbuf 8 else 0)) := by
  rw [State.rxFrameAck, State.rxPay_eq, State.rxPay_eq, State.rxPay_eq, State.rxPay_eq]

/-- A decode that ends with OK passed its three checks. -/
theorem execFrameDecode_ok {s t : State} (h : execFrameDecode s = .next t) (hok : t.code = .ok) :
    s.rxSizeOk ∧ s.rxSentinelsOk ∧ s.rxRecv = s.rxCalcCrc ∧
      t = ((s.setRxCrcs s.rxRecv s.rxCalcCrc).setRxFrame s.rxFrameHdr s.rxFrameAck).finish .ok := by
  rcases execFrameDecode_cases h with ⟨-, rfl⟩ | ⟨-, -, rfl⟩ | ⟨-, -, -, rfl⟩ | hgood
  case inr.inr.inr => exact hgood
  all_goals cases hok

/-! ### From TXBUF to RXBUF -/

/-- The HOST's copy of R116: TXBUF's first `n` bytes stand in RXBUF, and RX_LEN says so. -/
def State.copyFrame (s : State) (n : Nat) : State :=
  { s.storeBytes .rxbuf 0 (s.bufBytes .txbuf 0 n) with rxLen := BitVec.ofNat 17 n }

theorem State.bufBytes_copyFrame (s : State) (n : Nat) :
    (s.copyFrame n).bufBytes .rxbuf 0 n = s.bufBytes .txbuf 0 n := by
  have h := s.bufBytes_storeBytes_same .rxbuf 0 (s.bufBytes .txbuf 0 n)
  rwa [State.bufBytes_length] at h

/-! ### A flipped bit -/

/-- RXBUF with bit j of byte i flipped (45_frame.md R117). -/
def State.flipRxBit (s : State) (i j : Nat) : State := s.storeBytes .rxbuf i [s.bufByte .rxbuf i ^^^ (1 <<< j)]

theorem State.bufByte_flipRxBit_of_ne (s : State) {i k : Nat} (j : Nat) (h : k ≠ i) :
    (s.flipRxBit i j).bufByte .rxbuf k = s.bufByte .rxbuf k := by
  rw [State.flipRxBit, State.bufByte_storeBytes_same, if_neg]
  simp only [List.length_singleton]; omega

/-- The flipped byte differs from what it was. -/
theorem State.bufByte_flipRxBit_ne (s : State) (i : Nat) {j : Nat} (hj : j < 8) :
    (s.flipRxBit i j).bufByte .rxbuf i ≠ s.bufByte .rxbuf i := by
  have hmask : (1 : Byte) <<< j ≠ 0 := by interval_cases j <;> decide
  rw [State.flipRxBit, State.bufByte_storeBytes_same, if_pos (by simp), Nat.sub_self, List.getD_cons_zero]
  exact fun h => hmask ((BitVec.xor_right_inj _).1 (h.trans BitVec.xor_zero.symm))

/-- One byte of the data decides the CRC, the others being equal. -/
theorem crc32_injective_byte {seed : Word} {a c : List Byte} {x y : Byte}
    (h : crc32 seed (a ++ [x] ++ c) = crc32 seed (a ++ [y] ++ c)) : x = y := by
  simp only [crc32, BitVec.xor_left_inj, crcFold_append] at h
  exact crcStep_injective_byte (crcFold_injective_register h)

/-- Spans that differ in one byte have different CRCs. -/
theorem crc32_bufBytes_ne {s t : State} {b : Buf} {i n k : Nat} (seed : Word) (hlo : i ≤ k) (hhi : k < i + n)
    (hne : t.bufByte b k ≠ s.bufByte b k) (hrest : ∀ m, m ≠ k → t.bufByte b m = s.bufByte b m) :
    crc32 seed (t.bufBytes b i n) ≠ crc32 seed (s.bufBytes b i n) := by
  obtain ⟨d, rfl⟩ := Nat.exists_eq_add_of_le hlo
  obtain ⟨e, rfl⟩ := Nat.exists_eq_add_of_lt (Nat.lt_of_add_lt_add_left hhi)
  rw [show d + e + 1 = d + 1 + e by omega]
  have hbefore : t.bufBytes b i d = s.bufBytes b i d := State.bufBytes_ext fun j hj => hrest _ (by omega)
  have hafter : t.bufBytes b (i + (d + 1)) e = s.bufBytes b (i + (d + 1)) e :=
    State.bufBytes_ext fun j _ => hrest _ (by omega)
  simp only [State.bufBytes_append, State.bufBytes_one, hbefore, hafter]
  exact fun h => hne (crc32_injective_byte h)

/-- Big-endian words that are equal are read from equal bytes. -/
theorem State.bufByte_eq_of_rxBE32_eq {s t : State} {i k : Nat} (h : t.rxBE32 i = s.rxBE32 i) (hlo : i ≤ k)
    (hhi : k < i + 4) : t.bufByte .rxbuf k = s.bufByte .rxbuf k := by
  obtain ⟨h0, h1, h2, h3⟩ := be32_inj h
  obtain rfl | rfl | rfl | rfl : k = i ∨ k = i + 1 ∨ k = i + 2 ∨ k = i + 3 := by omega
  · exact h0
  · exact h1
  · exact h2
  · exact h3

/-- A flipped bit between the sentinels changes exactly one of the received CRC and the recomputed
one, so they no longer agree. -/
theorem State.flipRxBit_crcs_differ {s : State} {i j : Nat} (hj : j < 8) (hsize : 10 ≤ s.rxSize)
    (hgood : s.rxRecv = s.rxCalcCrc) (hlo : 0 < i) (hhi : i < s.rxSize - 1) :
    (s.flipRxBit i j).rxRecv ≠ (s.flipRxBit i j).rxCalcCrc := by
  have hne := s.bufByte_flipRxBit_ne i hj
  have hsame : (s.flipRxBit i j).rxSize = s.rxSize := rfl
  have hrest : ∀ k, k ≠ i → (s.flipRxBit i j).bufByte .rxbuf k = s.bufByte .rxbuf k :=
    fun k hk => s.bufByte_flipRxBit_of_ne j hk
  by_cases hcrc : i < s.rxSize - 5
  · have hrecv : (s.flipRxBit i j).rxRecv = s.rxRecv := by
      apply bytesBE32_injective
      rw [State.rxRecv, State.rxRecv, State.bytesBE32_rxBE32, State.bytesBE32_rxBE32, hsame]
      exact State.bufBytes_ext fun k _ => hrest _ (by omega)
    rw [hrecv, hgood]
    exact (crc32_bufBytes_ne frameCrcSeed hlo (by omega) hne hrest).symm
  · have hcalc : (s.flipRxBit i j).rxCalcCrc = s.rxCalcCrc := by
      rw [State.rxCalcCrc, State.rxCalcCrc, hsame, State.bufBytes_ext fun k hk => hrest _ (by omega)]
    rw [hcalc, ← hgood, State.rxRecv, State.rxRecv, hsame]
    exact fun h => hne (State.bufByte_eq_of_rxBE32_eq h (by omega) (by omega))

/-! ### The statements -/

/-- Settles O26: the copy makes RXBUF hold the frame FRAME_ENCODE put into TXBUF, and FRAME_DECODE accepts any
frame of the right size (45_frame.md R116). -/
theorem encodeThenDecodeReproducesTheFrame : Obligations.EncodeThenDecodeReproducesTheFrame := by
  intro s l hl hmax
  obtain ⟨t, ht, hrest, -, hcrc, hframe, -⟩ := execFrameEncode_frame (hl ▸ hmax)
  obtain rfl : l = s.payload.length := hl.trans s.payload_length.symm
  rw [← s.payload_length] at hframe
  have hcfg : t.cfg = s.cfg := by rw [hrest]
  have hsize : (t.copyFrame (10 + s.payload.length)).rxSize = 10 + s.payload.length :=
    toNat_ofNat_frameSize (hl ▸ Nat.le_of_lt_succ s.hdrLen.isLt)
  obtain ⟨u, hu, hcode, hhdr, hrecv, hcalc, hpayload⟩ :=
    execFrameDecode_of_wireFrame (hcfg ▸ hmax) hsize ((t.bufBytes_copyFrame _).trans hframe)
  refine ⟨t, u, ht, hu, hcode, hhdr.trans (packFields_fields s.frmHdr), hrecv.trans hcrc.symm,
    hcalc.trans hcrc.symm, ?_⟩
  rw [hpayload, s.payload_length, State.payload]

/-- Settles O17: the five bytes before the payload, the payload, and the five after it (45_frame.md R100, R102). -/
theorem wireFrameLayout : Obligations.WireFrameLayout := by
  intro cl mg l p hp
  rw [← hp]
  have htrailer : ∀ k,
      (wireFrame cl mg l p)[5 + k + p.length]? = (bytesBE32 (frameCrc cl mg l p) ++ [frameTail])[k]? := fun k => by
    rw [Nat.add_right_comm]
    exact wireFrame_getElem?_trailer cl mg l p k
  exact ⟨wireFrame_length cl mg l p, rfl, rfl, rfl, rfl, rfl, fun i hi => wireFrame_getElem?_payload cl mg l p hi,
    htrailer 0, htrailer 1, htrailer 2, htrailer 3, htrailer 4, rfl⟩

/-- Settles O18: the two branches of FRAME_ENCODE; a frame is 10 + L bytes, so the store reaches TXBUF[0 .. 9+L]
alone (45_frame.md R105). -/
theorem frameEncodeEffect : Obligations.FrameEncodeEffect := by
  refine ⟨decode_encode .frameEncode, ?_⟩
  rintro s _ _ _ p rfl rfl rfl hp
  obtain rfl : p = s.payload := hp.trans (s.bufBytes_zero .pbuf _).symm
  refine ⟨execFrameEncode_long, fun hmax => ?_⟩
  obtain ⟨t, ht, hrest, hlen, hcrc, hframe, hmem⟩ := execFrameEncode_frame hmax
  refine ⟨t, ht, fun j hj => ?_, hlen, hcrc, by rw [hrest], by rw [hrest], hmem, hrest⟩
  exact (t.getElem?_bufBytes_zero .txbuf hj).symm.trans (congrArg (·[j]?) hframe)

/-- Settles O19: FRAME_DECODE's branches in the order of their checks (45_frame.md R110, R111). -/
theorem frameDecodeOutcomes : Obligations.FrameDecodeOutcomes := by
  refine ⟨decode_encode .frameDecode, ?_⟩
  rintro s _ recv _ rfl hrecv rfl
  refine ⟨fun hsize => execFrameDecode_size fun ⟨hlo, hhi⟩ => ?_, fun hlo hhi => ⟨fun hbad => ?_, fun hh ht => ?_⟩⟩
  · exact hsize.elim (Nat.not_lt.2 hlo) (Nat.not_lt.2 hhi)
  · exact execFrameDecode_sentinels ⟨hlo, hhi⟩ fun ⟨hh, ht⟩ => hbad.elim (· hh) (· ht)
  · obtain rfl : recv = s.rxRecv := hrecv.trans (State.rxRecv_eq hlo).symm
    rw [← s.rxFrameAck_eq]
    exact ⟨execFrameDecode_crc ⟨hlo, hhi⟩ ⟨hh, ht⟩, execFrameDecode_good ⟨hlo, hhi⟩ ⟨hh, ht⟩⟩

/-- Settles O20: the only outcomes that write RX_CRC and RX_CALC are the two past the sentinels
(45_frame.md R112). -/
theorem receivedCrcsAreThoseOfTheLastDecodeThatReachedTheCheck :
    Obligations.ReceivedCrcsAreThoseOfTheLastDecodeThatReachedTheCheck := by
  refine ⟨fun s hlo hhi hh ht => ?_, fun i s t h hno => ?_⟩
  · have hbytes := s.bytesBE32_rxBE32 (s.rxSize - 5)
    by_cases heq : s.rxRecv = s.rxCalcCrc
    · exact ⟨_, execFrameDecode_good ⟨hlo, hhi⟩ ⟨hh, ht⟩ heq, hbytes, rfl, .inl rfl⟩
    · exact ⟨_, execFrameDecode_crc ⟨hlo, hhi⟩ ⟨hh, ht⟩ heq, hbytes, rfl, .inr rfl⟩
  · rcases exec_cases h with ⟨c, rfl⟩ | ⟨-, -, v, rfl⟩ | ⟨-, -, rfl⟩ | ⟨hi, a, b, rfl⟩ | ⟨hi, a, b, c, d, rfl⟩
    · exact ⟨rfl, rfl⟩
    · exact ⟨rfl, rfl⟩
    · exact ⟨rfl, rfl⟩
    · exact absurd ⟨hi, .inr rfl⟩ hno
    · exact absurd ⟨hi, .inl rfl⟩ hno

/-- Settles O21: the only outcome that writes RX_HDR and RX_ACK is FRAME_DECODE's OK, and it packs them from
RXBUF's bytes (45_frame.md R113, R114). -/
theorem goodFrameFillsHeaderAndAck : Obligations.GoodFrameFillsHeaderAndAck := by
  refine ⟨fun s t h hok => ?_, fun i s t h hno => ?_⟩
  · obtain ⟨-, -, -, rfl⟩ := execFrameDecode_ok h hok
    obtain ⟨hcl, hmg, hlenHi, hlenLo⟩ := packFields_be16_bytes (s.bufByte .rxbuf 1) (s.bufByte .rxbuf 2)
      (s.bufByte .rxbuf 3) (s.bufByte .rxbuf 4)
    obtain ⟨h0, h1, h2, h3⟩ := packFields_be16_bytes (s.rxPay 0) (s.rxPay 1) (s.rxPay 2) (s.rxPay 3)
    exact ⟨hcl, hmg, hlenHi, hlenLo, h0.trans (s.rxPay_eq 0), h1.trans (s.rxPay_eq 1), h2.trans (s.rxPay_eq 2),
      h3.trans (s.rxPay_eq 3)⟩
  · rcases exec_cases h with ⟨c, rfl⟩ | ⟨-, -, v, rfl⟩ | ⟨-, -, rfl⟩ | ⟨-, a, b, rfl⟩ | ⟨hi, a, b, c, d, rfl⟩
    case inr.inr.inr.inr => exact absurd ⟨hi, rfl⟩ hno
    all_goals exact ⟨rfl, rfl⟩

/-- Settles O22: FRAME_DECODE finds the fields from N, so the length field decides nothing (45_frame.md R115). -/
theorem decodeAcceptsAnyLengthField : Obligations.DecodeAcceptsAnyLengthField := by
  intro s cl mg l p hmax hsize h
  rw [hsize, Nat.add_sub_cancel_left]
  exact execFrameDecode_of_wireFrame hmax hsize h

/-- Settles O27: a flip in byte 0 or N-1 breaks a sentinel; any other flip makes exactly one of the two CRCs
compared another one (45_frame.md R117). -/
theorem everySingleBitFlipIsDetected : Obligations.EverySingleBitFlipIsDetected := by
  intro s t i j h hok hi hj
  change ∃ u, execFrameDecode (s.flipRxBit i j) = .next u ∧ _
  obtain ⟨hsize, ⟨hheader, htail⟩, hgood, -⟩ := execFrameDecode_ok h hok
  have hne := s.bufByte_flipRxBit_ne i hj
  by_cases hplace : i = 0 ∨ i = s.rxLen.toNat - 1
  · refine ⟨_, execFrameDecode_sentinels (s := s.flipRxBit i j) hsize ?_, (if_pos hplace).symm⟩
    rintro ⟨hheader', htail'⟩
    rcases hplace with rfl | rfl
    · exact hne (hheader'.trans hheader.symm)
    · exact hne (htail'.trans htail.symm)
  · have hsent : (s.flipRxBit i j).rxSentinelsOk :=
      ⟨(s.bufByte_flipRxBit_of_ne j (by omega)).trans hheader,
        (s.bufByte_flipRxBit_of_ne j (fun hk => hplace (.inr hk.symm))).trans htail⟩
    have hhi : i < s.rxSize - 1 := by unfold State.rxSize; omega
    exact ⟨_, execFrameDecode_crc hsize hsent (State.flipRxBit_crcs_differ hj hsize.1 hgood (by omega) hhi),
      (if_neg hplace).symm⟩

end Sys2Proof.Machine

/-! SUPPORT. How a command ends: it goes on, and leaves the FCE idle (60_exceptions.md R130). -/

namespace Sys2Proof.Machine

/-- Every command goes on to a state with BUSY = 0. -/
theorem exec_ends_idle (i : Instr) (s : State) : ∃ t, exec i s = .next t ∧ t.busy = false := by
  obtain ⟨t, ht⟩ := exec_next i s
  exact ⟨t, ht, exec_idle ht⟩

/-- So does the ENGINE step, whatever word is latched: a legal word's step is its command, and an illegal
word's finishes with ILLEGAL_CMD. -/
theorem engineStep_ends_idle (s : State) : ∃ t, engineStep s = .next t ∧ t.busy = false := by
  cases hd : decode s.cmdLatch with
  | ok i => rw [engineStep_legal hd]; exact exec_ends_idle i s
  | error e => exact ⟨_, engineStep_illegal hd, rfl⟩

/-- Settles O6: every command goes on and every one clears BUSY, and while BUSY = 0 a CMD write is latched
(60_exceptions.md R130). -/
theorem everyCommandEndsIdle : Obligations.EveryCommandEndsIdle := by
  refine ⟨exec_ends_idle, fun s => ?_⟩
  obtain ⟨t, ht, hidle⟩ := engineStep_ends_idle s
  exact ⟨t, ht, hidle, fun v => writeTarget_idle hidle _ v⟩

end Sys2Proof.Machine

/-! SUPPORT. The reset event: what every register reads after it, which bytes it leaves in the buffers, and on what
of the state before it the result depends (70_reset_and_hazards.md R150, R151). -/

namespace Sys2Proof.Machine

/-- A power-up is a reset event of the machine with that configuration, HOST program and schedule. -/
theorem State.powerUp_eq_afterReset (c : Config) (d : InitBuf) (prog : List HostOp) (sched : List Turn) :
    State.powerUp c d prog sched =
      State.afterReset d { State.reset with cfg := c, prog := prog, sched := sched } := rfl

/-! ### The registers -/

theorem State.readReg_afterReset (d : InitBuf) (s : State) {r : Reg} (h : r ≠ .cap) :
    (State.afterReset d s).readReg r = 0 := by
  cases r with
  | cap => exact absurd rfl h
  | status => simp [State.readReg, State.statusWord, State.afterReset, Code.bits]
  | crcValue => exact BitVec.xor_self
  | _ => rfl

/-- The effect lines of R150, whatever the state before. -/
theorem State.afterReset_registers (d : InitBuf) (s : State) (hmax : s.cfg.maxPayload ≤ 65535) :
    (∀ r, r ≠ .cap → (State.afterReset d s).readReg r = 0) ∧
      ((State.afterReset d s).readReg .cap).toNat = s.cfg.maxPayload ∧
      (State.afterReset d s).r = 0xFFFFFFFF ∧ (State.afterReset d s).cmdLatch = 0 ∧
      (State.afterReset d s).busy = false ∧ (State.afterReset d s).werr = false ∧
      (State.afterReset d s).code = .ok :=
  ⟨fun _ => State.readReg_afterReset d s, State.readReg_cap_toNat (State.afterReset d s) hmax,
    rfl, rfl, rfl, rfl, rfl⟩

/-! ### The buffers -/

/-- A reset stores the bytes drawn, cut to the capacity, into each buffer of a machine whose memory lists nothing. -/
theorem State.bufByte_afterReset_eq_storeBytes (d : InitBuf) (s : State) (b : Buf) (i : Nat) :
    (State.afterReset d s).bufByte b i =
      (((({ s with mem := [] } : State).storeBytes .pbuf 0 (d.pbuf.take (Buf.pbuf.capacity s.cfg))).storeBytes
        .txbuf 0 (d.txbuf.take (Buf.txbuf.capacity s.cfg))).storeBytes
        .rxbuf 0 (d.rxbuf.take (Buf.rxbuf.capacity s.cfg))).bufByte b i := rfl

/-- Bytes stored over zeros from byte 0 on, cut to n: below n the buffer reads them, and 0 past their end. -/
theorem State.bufByte_storeBytes_take (s : State) (b : Buf) (bs : List Byte) {n i : Nat} (hi : i < n)
    (hzero : s.bufByte b i = 0) : (s.storeBytes b 0 (bs.take n)).bufByte b i = bs.getD i 0 := by
  rw [State.bufByte_storeBytes_same, List.length_take, hzero]
  by_cases hlen : i < bs.length
  · rw [if_pos (by omega), Nat.sub_zero, List.getD_eq_getElem?_getD, List.getElem?_take_of_lt hi,
      ← List.getD_eq_getElem?_getD]
  · rw [if_neg (by omega), List.getD_eq_default _ _ (Nat.le_of_not_lt hlen)]

/-- After a reset every buffer holds the bytes drawn for it: the other buffers' stores lie in their own windows. -/
theorem State.bufByte_afterReset (d : InitBuf) (s : State) (hmax : s.cfg.maxPayload ≤ 65535) (b : Buf) {i : Nat}
    (hi : i < b.capacity s.cfg) : (State.afterReset d s).bufByte b i = (d.bytes b).getD i 0 := by
  have hwindow : i < 0x20000 := hi.trans (Buf.capacity_lt_window hmax b)
  have hother : ∀ (t : State) (b' : Buf) (bs : List Byte), b ≠ b' →
      (t.storeBytes b' 0 (bs.take (b'.capacity s.cfg))).bufByte b i = t.bufByte b i := fun t b' bs hne => by
    have hcap := Buf.capacity_lt_window hmax b'
    refine State.bufByte_storeBytes_other t hne ?_ hwindow
    rw [List.length_take]
    omega
  rw [State.bufByte_afterReset_eq_storeBytes]
  cases b with
  | pbuf =>
    rw [hother _ .rxbuf _ (by decide), hother _ .txbuf _ (by decide)]
    exact State.bufByte_storeBytes_take _ .pbuf _ hi rfl
  | txbuf =>
    rw [hother _ .rxbuf _ (by decide)]
    exact State.bufByte_storeBytes_take _ .txbuf _ hi (hother _ .pbuf _ (by decide))
  | rxbuf =>
    refine State.bufByte_storeBytes_take _ .rxbuf _ hi ?_
    rw [hother _ .txbuf _ (by decide), hother _ .pbuf _ (by decide)]
    rfl

/-- The draw that leaves exactly `contents` in the buffers of a machine of configuration `c`. -/
def InitBuf.ofContents (c : Config) (contents : Buf → Nat → Byte) : InitBuf where
  pbuf := (List.range (Buf.pbuf.capacity c)).map (contents .pbuf)
  txbuf := (List.range (Buf.txbuf.capacity c)).map (contents .txbuf)
  rxbuf := (List.range (Buf.rxbuf.capacity c)).map (contents .rxbuf)

theorem InitBuf.bytes_ofContents (c : Config) (contents : Buf → Nat → Byte) (b : Buf) :
    (InitBuf.ofContents c contents).bytes b = (List.range (b.capacity c)).map (contents b) := by
  cases b <;> rfl

theorem State.bufByte_afterReset_ofContents (contents : Buf → Nat → Byte) (s : State)
    (hmax : s.cfg.maxPayload ≤ 65535) (b : Buf) {i : Nat} (hi : i < b.capacity s.cfg) :
    (State.afterReset (InitBuf.ofContents s.cfg contents) s).bufByte b i = contents b i := by
  rw [State.bufByte_afterReset _ s hmax b hi, InitBuf.bytes_ofContents]
  simp [List.getD_eq_getElem?_getD, hi]

/-! ### On what the result depends -/

/-- A reset depends on nothing of the FCE but its configuration. -/
theorem State.afterReset_congr {s u : State} (d : InitBuf) (hcfg : u.cfg = s.cfg) (hprog : u.prog = s.prog)
    (hsched : u.sched = s.sched) (hreplies : u.replies = s.replies) :
    State.afterReset d s = State.afterReset d u := by
  simp only [State.afterReset, hcfg, hprog, hsched, hreplies]

/-! ### The statements -/

/-- Settles O44: a reset turn and a power-up are both `State.afterReset`, whose registers are R150's effect lines
and whose buffers are the draw. -/
theorem resetEventSetsEveryRegisterAndDrawsTheBuffers :
    Obligations.ResetEventSetsEveryRegisterAndDrawsTheBuffers := by
  rintro c ⟨-, hmax, -⟩
  refine ⟨?_, ?_, fun contents => ⟨InitBuf.ofContents c contents, ?_, ?_⟩⟩
  · rintro s d rest rfl hs
    exact ⟨_, step_reset hs, State.afterReset_registers d { s with sched := rest } hmax⟩
  · rintro d prog sched _ rfl
    rw [State.powerUp_eq_afterReset]
    exact State.afterReset_registers d _ hmax
  · rintro s rest rfl hs
    exact ⟨_, step_reset hs, fun b _ hi =>
      State.bufByte_afterReset_ofContents contents { s with sched := rest } hmax b hi⟩
  · intro prog sched b i hi
    rw [State.powerUp_eq_afterReset]
    exact State.bufByte_afterReset_ofContents contents
      { State.reset with cfg := c, prog := prog, sched := sched } hmax b hi

/-- Settles O45: the command in progress is among what `State.afterReset` does not depend on (R151). -/
theorem resetAbandonsTheCommandInProgress : Obligations.ResetAbandonsTheCommandInProgress := by
  intro s u d rest _ hs hu hcfg hprog hreplies
  rw [step_reset hs, step_reset hu]
  exact ⟨congrArg _ (State.afterReset_congr d hcfg hprog rfl hreplies), _, rfl, rfl⟩

end Sys2Proof.Machine

/-! SUPPORT. The encoder against the decoder, and the step that runs the latched word (30_encoding.md R60 to R64,
10_state.md R26). -/

namespace Sys2Proof

/-- A command word is its three fields (30_encoding.md R60). -/
theorem word_eq_packFields (w : Word) : w = Machine.packFields (opField w) (imm8Field w) (rsvdField w) :=
  (Machine.packFields_fields w).symm

/-- A word of CRC_FEED_BYTE's row has no freedom but its IMM8, so it is the encoder's. -/
theorem eq_encode_of_crcFeedByte_row {w : Word} (h : w &&& 0xFFFF00FF = 0x00000002) :
    w = encode (.crcFeedByte (imm8Field w)) := by
  obtain ⟨hrsvd, hop⟩ := fields_of_crcFeedByte_row h
  calc w = Machine.packFields 0x02 (imm8Field w) 0 := by rw [← hop, ← hrsvd]; exact word_eq_packFields w
    _ = encode (.crcFeedByte (imm8Field w)) := by
      exact BitVec.or_zero.trans (BitVec.or_comm ..)

/-- A word that decodes to an instruction is the instruction's own. -/
theorem eq_encode_of_decode {w : Word} {i : Instr} (h : decode w = .ok i) : w = encode i := by
  obtain ⟨hrow, himm⟩ := (decode_eq_ok_iff w i).1 h
  cases i with
  | crcFeedByte b => rw [himm b rfl]; exact eq_encode_of_crcFeedByte_row hrow
  | _ => exact and_fullMask_eq_iff.1 hrow

end Sys2Proof

namespace Sys2Proof.Machine

/-- Settles O3: every instruction's word decodes to it, and no other word does (30_encoding.md R60 to R63). -/
theorem decodeIsTheInverseOfEncode : Obligations.DecodeIsTheInverseOfEncode := fun _ i _ =>
  ⟨eq_encode_of_decode, fun h => h ▸ decode_encode i⟩

/-- Settles O1: the seven legal words are the encoder's, and the five others are looked up
(30_encoding.md R62, R64). -/
theorem sampleWordsDecode : Obligations.SampleWordsDecode :=
  ⟨decode_encode .crcLoad, decode_encode (.crcFeedByte 0x31), decode_encode (.crcFeedByte 0xFF),
    decode_encode .crcFeedWordLe, decode_encode .crcFeedBuf, decode_encode .frameEncode,
    decode_encode .frameDecode, by decide⟩

/-- A word that decodes to no instruction only reports itself (30_encoding.md R64). -/
theorem engineStep_of_no_instr {s : State} (h : ∀ i, decode s.cmdLatch ≠ .ok i) :
    engineStep s = .next (s.finish .illegalCmd) := by
  cases hd : decode s.cmdLatch with
  | ok i => exact absurd hd (h i)
  | error e => exact engineStep_illegal hd

/-- An ENGINE turn while no command is in progress only passes. -/
theorem step_engine_idle {s : State} {rest : List Turn} (hb : s.busy = false) (hs : s.sched = .engine :: rest) :
    step s = .next { s with sched := rest } := by
  unfold step; rw [hs]
  exact if_neg (Bool.eq_false_iff.1 hb)

/-- A HOST turn with no access left only passes (log entry 6). -/
theorem step_host_empty {s : State} {rest : List Turn} (hp : s.prog = []) (hs : s.sched = .host :: rest) :
    step s = .next { s with sched := rest } := by
  unfold step; rw [hs]
  simp only [hostStep, hp]

/-- Placing a word makes its ENGINE step the next one. -/
theorem step_withFetchWord (s : State) (nbits w : Nat) :
    step (s.withFetchWord nbits w) = engineStep (s.latch nbits w) :=
  step_engine (s := s.withFetchWord nbits w) ⟨rfl, .inl rfl⟩

/-- The host's view of the decoder, as the decoder's. -/
theorem decode_of_decodeTableWord {nbits w : Nat} {i : Instr} (h : decodeTableWord nbits w = some i) :
    decode (BitVec.ofNat 32 (w % 2 ^ nbits)) = .ok i := by
  unfold decodeTableWord at h
  split at h
  · cases h; assumption
  · cases h

/-- Settles O5: an ENGINE turn, by the schedule or by default, is `engineStep`, and `engineStep` follows the
decoder (10_state.md R26). -/
theorem stepRunsTheLatchedCommand : Obligations.StepRunsTheLatchedCommand := by
  have hdefault : ∀ s : State, s.busy = true → s.sched = [] → step s = engineStep s := fun s hb hs => by
    rw [step_engine ⟨hb, .inr ⟨hs, rfl⟩⟩, ← hs]
  have hturn : ∀ (s : State) rest, s.busy = true → s.sched = .engine :: rest →
      step s = engineStep { s with sched := rest } := fun s rest hb hs => step_engine ⟨hb, .inl hs⟩
  refine ⟨fun s hb => ⟨hdefault s hb, fun rest => hturn s rest hb⟩, fun s i => engineStep_legal,
    fun s => engineStep_of_no_instr, fun s i hb hd => ⟨fun hs => ?_, fun rest hs => ?_⟩, fun s rest => step_engine_idle,
    step_withFetchWord, fun s nbits w i h => ?_⟩
  · rw [hdefault s hb hs, engineStep_legal hd]
  · rw [hturn s rest hb hs, engineStep_legal (s := { s with sched := rest }) hd]
  · rw [step_withFetchWord]
    exact engineStep_legal (s := s.latch nbits w) (decode_of_decodeTableWord h)

end Sys2Proof.Machine

/-! SUPPORT. The commands against everything they neither read nor write: R, the bytes of RXBUF beyond N, and what
the HOST does while a command is in progress (10_state.md section 9, 20_memory.md R53, 45_frame.md R103, R110, R118,
60_exceptions.md R131, R132). -/

namespace Sys2Proof.Machine

/-! ### Codes and frames -/

/-- Settles O29: each command's outcomes one by one; every failing one but INTEGRITY_ERROR is a bare `finish`
(60_exceptions.md R131, R132). -/
theorem failedCommandIsPrecise : Obligations.FailedCommandIsPrecise := by
  intro i s t h
  cases i with
  | crcFeedBuf => rcases execCrcFeedBuf_cases h with ⟨-, rfl⟩ | ⟨-, rfl⟩ <;> simp [State.finish]
  | frameEncode => rcases execFrameEncode_cases h with ⟨-, rfl⟩ | ⟨-, rfl⟩ <;> simp [State.finish]
  | frameDecode =>
    rcases execFrameDecode_cases h with ⟨-, rfl⟩ | ⟨-, -, rfl⟩ | ⟨-, -, -, rfl⟩ | ⟨-, -, -, rfl⟩ <;>
      simp [State.finish, State.setRxCrcs]
  | _ => cases h; simp

/-- Settles O28: what `exec_cases` lists is all a command writes, and a frame is 10 + L bytes
(10_state.md section 9). -/
theorem commandsLeaveTheRestUnchanged : Obligations.CommandsLeaveTheRestUnchanged := by
  intro i s t h
  rcases exec_cases h with ⟨c, rfl⟩ | ⟨he, hd, v, rfl⟩ | ⟨rfl, -, rfl⟩ | ⟨rfl, a, b, rfl⟩ | ⟨rfl, a, b, c, d, rfl⟩
  · simp
  · simp [he, hd]
  · refine ⟨by simp, fun _ => rfl, fun hne => absurd rfl hne, fun _ => ⟨rfl, rfl, rfl, rfl⟩, fun a ha => ?_⟩
    rw [State.finish_mem, State.putFrame_mem, Memory.read_writeBytes, wireFrame_length, State.payload_length]
    exact if_neg ha
  · simp
  · simp

/-! ### FRAME_DECODE and the bytes it reads -/

/-- FRAME_DECODE's checks and results read RXBUF below N only (45_frame.md R110). -/
theorem State.rx_congr_below {s t : State} (hl : t.rxLen = s.rxLen) (hsize : 10 ≤ s.rxSize)
    (hb : ∀ i, i < s.rxSize → t.bufByte .rxbuf i = s.bufByte .rxbuf i) :
    t.rxRecv = s.rxRecv ∧ t.rxCalcCrc = s.rxCalcCrc ∧ t.rxFrameHdr = s.rxFrameHdr ∧
      t.rxFrameAck = s.rxFrameAck ∧ (t.rxSentinelsOk ↔ s.rxSentinelsOk) := by
  have hn : t.rxSize = s.rxSize := congrArg BitVec.toNat hl
  have hpay : ∀ i, t.rxPay i = s.rxPay i := fun i => by
    unfold State.rxPay
    rw [hn]
    by_cases hi : i < s.rxSize - 10
    · rw [if_pos hi, if_pos hi, hb _ (by omega)]
    · rw [if_neg hi, if_neg hi]
  refine ⟨?_, ?_, ?_, ?_, ?_⟩
  · rw [State.rxRecv_eq hsize, State.rxRecv_eq (hn ▸ hsize), hn, hb _ (by omega), hb _ (by omega), hb _ (by omega),
      hb _ (by omega)]
  · rw [State.rxCalcCrc, State.rxCalcCrc, hn, State.bufBytes_ext fun j hj => hb _ (by omega)]
  · rw [State.rxFrameHdr, State.rxFrameHdr, State.rxBE16, State.rxBE16, hb 1 (by omega), hb 2 (by omega),
      hb 3 (by omega), hb 4 (by omega)]
  · rw [State.rxFrameAck, State.rxFrameAck, hpay, hpay, hpay, hpay]
  · rw [State.rxSentinelsOk, State.rxSentinelsOk, hn, hb 0 (by omega), hb _ (by omega)]

/-- Settles O23: no check and no result reads a byte at or beyond N, and check (0) reads none at all
(45_frame.md R110). -/
theorem decodeReadsNoByteBeyondTheSize : Obligations.DecodeReadsNoByteBeyondTheSize := by
  intro s t m hm h
  change execFrameDecode { s with mem := m } = _
  by_cases hsize : s.rxSizeOk
  · obtain ⟨hrecv, hcalc, hhdr, hack, hsent⟩ := State.rx_congr_below (s := s) (t := { s with mem := m }) rfl hsize.1 hm
    rcases execFrameDecode_cases h with ⟨hno, -⟩ | ⟨-, hno, rfl⟩ | ⟨-, hyes, hne, rfl⟩ | ⟨-, hyes, heq, rfl⟩
    · exact absurd hsize hno
    · exact execFrameDecode_sentinels (s := { s with mem := m }) hsize (fun hyes => hno (hsent.1 hyes))
    · rw [execFrameDecode_crc (s := { s with mem := m }) hsize (hsent.2 hyes) (by rwa [hrecv, hcalc]), hrecv, hcalc]
      rfl
    · rw [execFrameDecode_good (s := { s with mem := m }) hsize (hsent.2 hyes) (by rwa [hrecv, hcalc]), hrecv, hcalc,
        hhdr, hack]
      rfl
  · cases (execFrameDecode_size hsize).symm.trans h
    exact execFrameDecode_size (s := { s with mem := m }) hsize

/-- A FRAME_DECODE finds in the state it left all it read before, and so leaves it. -/
theorem execFrameDecode_again {s t : State} (h : execFrameDecode s = .next t) : execFrameDecode t = .next t := by
  rcases execFrameDecode_cases h with ⟨hno, rfl⟩ | ⟨hsize, hno, rfl⟩ | ⟨hsize, hyes, hne, rfl⟩ | ⟨hsize, hyes, heq, rfl⟩
  · exact execFrameDecode_size (s := s.finish .paramError) hno
  · exact execFrameDecode_sentinels (s := s.finish .framingError) hsize hno
  · exact execFrameDecode_crc (s := (s.setRxCrcs s.rxRecv s.rxCalcCrc).finish .integrityError) hsize hyes hne
  · obtain ⟨hrecv, hcalc, hhdr, hack, hsent⟩ := State.rx_congr (s := s)
      (t := ((s.setRxCrcs s.rxRecv s.rxCalcCrc).setRxFrame s.rxFrameHdr s.rxFrameAck).finish .ok) rfl rfl
    refine Eq.trans (execFrameDecode_good hsize (hsent.2 hyes) (hrecv.trans (heq.trans hcalc.symm))) ?_
    rw [hrecv, hcalc, hhdr, hack]
    rfl

/-- Settles O25: FRAME_DECODE writes neither memory nor RX_LEN, the only things it reads (45_frame.md R118). -/
theorem decodeAgainGivesTheSameResult : Obligations.DecodeAgainGivesTheSameResult := by
  intro s
  obtain ⟨t, ht⟩ := exec_next .frameDecode s
  obtain ⟨⟨-, -, -, -, -, -, -, hlen, -⟩, -, hmem, -⟩ := commandsLeaveTheRestUnchanged .frameDecode s t ht
  obtain ⟨-, -, hread⟩ := hmem (by decide)
  exact ⟨t, ht, fun i => hread _, hlen, execFrameDecode_again ht⟩

/-! ### The accumulator -/

/-- FRAME_ENCODE with another R does the same and leaves that R. -/
theorem execFrameEncode_setR {s t : State} (h : execFrameEncode s = .next t) (x : Word) :
    execFrameEncode (s.setR x) = .next (t.setR x) := by
  rcases execFrameEncode_cases h with ⟨hlong, rfl⟩ | ⟨hfits, rfl⟩
  · exact execFrameEncode_long (s := s.setR x) hlong
  · exact execFrameEncode_fits (s := s.setR x) hfits

/-- FRAME_DECODE with another R does the same and leaves that R. -/
theorem execFrameDecode_setR {s t : State} (h : execFrameDecode s = .next t) (x : Word) :
    execFrameDecode (s.setR x) = .next (t.setR x) := by
  rcases execFrameDecode_cases h with ⟨hno, rfl⟩ | ⟨hsize, hno, rfl⟩ | ⟨hsize, hyes, hne, rfl⟩ | ⟨hsize, hyes, heq, rfl⟩
  · exact execFrameDecode_size (s := s.setR x) hno
  · exact execFrameDecode_sentinels (s := s.setR x) hsize hno
  · exact execFrameDecode_crc (s := s.setR x) hsize hyes hne
  · exact execFrameDecode_good (s := s.setR x) hsize hyes heq

/-- Settles O24: no check and no result of the two frame commands names R (45_frame.md R103). -/
theorem frameCommandsNeitherReadNorWriteTheAccumulator :
    Obligations.FrameCommandsNeitherReadNorWriteTheAccumulator := by
  intro i s x hi
  obtain ⟨t, ht⟩ := exec_next i s
  obtain ⟨-, hr, -⟩ := commandsLeaveTheRestUnchanged i s t ht
  refine ⟨t, ht, hr hi, ?_⟩
  rcases hi with rfl | rfl
  · exact execFrameEncode_setR ht x
  · exact execFrameDecode_setR ht x

/-! ### The HOST's side of a command in progress -/

/-- The state with other values of what the HOST can move while a command is in progress: WERR, and the model's
own program, schedule and replies. -/
def State.withHostSide (s : State) (w : Bool) (p : List HostOp) (q : List Turn) (r : List Word) : State :=
  { s with werr := w, prog := p, sched := q, replies := r }

section

variable (w : Bool) (p : List HostOp) (q : List Turn) (r : List Word)

/-- No command reads or writes the HOST's side. -/
theorem exec_withHostSide {i : Instr} {s t : State} (h : exec i s = .next t) :
    exec i (s.withHostSide w p q r) = .next (t.withHostSide w p q r) := by
  cases i with
  | crcFeedBuf =>
    rcases execCrcFeedBuf_cases h with ⟨hout, rfl⟩ | ⟨hin, rfl⟩
    · exact execCrcFeedBuf_outside (s := s.withHostSide w p q r) hout
    · exact execCrcFeedBuf_inside (s := s.withHostSide w p q r) hin
  | frameEncode =>
    rcases execFrameEncode_cases h with ⟨hlong, rfl⟩ | ⟨hfits, rfl⟩
    · exact execFrameEncode_long (s := s.withHostSide w p q r) hlong
    · exact execFrameEncode_fits (s := s.withHostSide w p q r) hfits
  | frameDecode =>
    rcases execFrameDecode_cases h with ⟨hno, rfl⟩ | ⟨hsize, hno, rfl⟩ | ⟨hsize, hyes, hne, rfl⟩ |
      ⟨hsize, hyes, heq, rfl⟩
    · exact execFrameDecode_size (s := s.withHostSide w p q r) hno
    · exact execFrameDecode_sentinels (s := s.withHostSide w p q r) hsize hno
    · exact execFrameDecode_crc (s := s.withHostSide w p q r) hsize hyes hne
    · exact execFrameDecode_good (s := s.withHostSide w p q r) hsize hyes heq
  | _ => cases h; rfl

/-- Nor does the ENGINE's step, whatever word is latched. -/
theorem engineStep_withHostSide {s t : State} (h : engineStep s = .next t) :
    engineStep (s.withHostSide w p q r) = .next (t.withHostSide w p q r) := by
  rcases engineStep_cases h with ⟨⟨e, hd⟩, rfl⟩ | ⟨i, hd, hi⟩
  · exact engineStep_illegal (s := s.withHostSide w p q r) hd
  · exact (engineStep_legal (s := s.withHostSide w p q r) hd).trans (exec_withHostSide w p q r hi)

end

/-- While a command is in progress, a HOST access moves the HOST's side alone (20_memory.md R47). -/
theorem hostAccess_busy {op : HostOp} {s t : State} (hb : s.busy = true) (h : hostAccess op s = .next t) :
    t = s.withHostSide t.werr t.prog s.sched t.replies := by
  obtain ⟨u, rfl | ⟨g, v, rfl⟩, ht⟩ := hostAccess_read_or_write h
  · rw [ht]; rfl
  · rw [writeTarget_busy hb] at ht
    rw [ht]; rfl

/-- So does a HOST turn, with an access left or without. -/
theorem step_host_busy {s t : State} {more : List Turn} (hb : s.busy = true) (hs : s.sched = .host :: more)
    (h : step s = .next t) : t = s.withHostSide t.werr t.prog more t.replies := by
  match hp : s.prog with
  | [] =>
    rw [step_host_empty hp hs] at h
    cases h; rfl
  | op :: rest =>
    rw [step_host ⟨hp, .inl hs⟩] at h
    exact hostAccess_busy (s := s.pop rest more) hb h

/-- After any number of HOST turns the ENGINE's step is the one it would have been at once. -/
theorem goodRun_hosts_engine {n : Nat} {s t u : State} (hb : s.busy = true)
    (hs : s.sched = List.replicate n .host ++ [.engine]) (hrun : goodRun (n + 1) s t) (hu : engineStep s = .next u) :
    t = u.withHostSide t.werr t.prog [] t.replies := by
  induction n generalizing s u with
  | zero =>
    obtain ⟨v, hv, hrun⟩ := (goodRun_succ 0 s t).1 hrun
    obtain rfl := (goodRun_zero v t).1 hrun
    rw [step_engine ⟨hb, .inl hs⟩] at hv
    cases (engineStep_withHostSide s.werr s.prog [] s.replies hu).symm.trans hv
    rfl
  | succ n ih =>
    obtain ⟨v, hv, hrun⟩ := (goodRun_succ (n + 1) s t).1 hrun
    have hside := step_host_busy hb hs hv
    rw [hside] at hrun
    have hend := ih (s := s.withHostSide v.werr v.prog _ v.replies) hb rfl hrun (engineStep_withHostSide _ _ _ _ hu)
    exact hend

/-- Settles O37: by induction over the HOST's turns, each of which moves the HOST's side alone, which no command
reads (20_memory.md R53, 70_reset_and_hazards.md R156). -/
theorem operandsAreThoseOfTheCmdWrite : Obligations.OperandsAreThoseOfTheCmdWrite := by
  intro n s t hb hs hrun
  obtain ⟨u, hu, -⟩ := engineStep_ends_idle s
  exact ⟨u, hu, goodRun_hosts_engine hb hs hrun hu⟩

end Sys2Proof.Machine

/-! SUPPORT. What one event can change: the HOST's access, the ENGINE's step and the reset against each part of the
state, and the invariant every step keeps (10_state.md sections 2 to 7, 92_eei_decisions.md D27). -/

namespace Sys2Proof.Machine

/-! ### What a HOST access changes -/

/-- Everything a HOST access that goes on can leave: nothing new but the HOST's own program and replies, the write
error of a busy write, a register's write rule, or a word in PBUF or RXBUF. -/
theorem hostAccess_write_cases {op : HostOp} {s t : State} (h : hostAccess op s = .next t) :
    t = { s with prog := t.prog, replies := t.replies } ∨
    (s.busy = true ∧ t = s.flagWriteError) ∨
    (s.busy = false ∧ ∃ r v, op = .write 4 (s.cfg.base + r.offset) v ∧ t = s.writeReg r v) ∨
    (s.busy = false ∧ ∃ b k v, b ≠ .txbuf ∧ k % 4 = 0 ∧ k < b.capacity s.cfg ∧
      op = .write 4 (s.cfg.base + (b.base + k)) v ∧ t = s.writeWindow b k v) := by
  rcases hostAccess_cases h with ⟨_, _, g, -, -, rfl⟩ | ⟨size, off, v, g, rfl, hg, rfl⟩ | ⟨-, rfl | rfl⟩
  case inr.inl =>
    obtain ⟨rfl, ha, rfl, hcap⟩ := busTarget_ok hg
    rcases writeTarget_cases s g v with ⟨hb, hw⟩ | ⟨hb, r, rfl, hw⟩ | ⟨-, -, hw⟩ | ⟨hb, b, k, htx, rfl, hw⟩
    · exact .inr (.inl ⟨hb, hw⟩)
    · exact .inr (.inr (.inl ⟨hb, r, v, rfl, hw⟩))
    · exact .inl (by rw [hw])
    · have hk : k % 4 = 0 := by
        have hbase : b.base % 4 = 0 := by cases b <;> rfl
        simp only [Target.offset] at ha
        omega
      exact .inr (.inr (.inr ⟨hb, b, k, v, htx, hk, hcap b k rfl, rfl, hw⟩))
  all_goals exact .inl rfl

/-- A register's write rule moves no parameter, no CODE, no result register and no memory. -/
theorem State.writeReg_frame (s : State) (r : Reg) (v : Word) :
    s.writeReg r v = { s.writeReg r v with
      cfg := s.cfg, code := s.code, txLen := s.txLen, txCrc := s.txCrc, rxHdr := s.rxHdr, rxAck := s.rxAck,
      rxCrc := s.rxCrc, rxCalc := s.rxCalc, mem := s.mem } := by
  cases r with
  | status => simp only [State.writeReg, State.writeStatus_eq]
  | _ => rfl

/-- CMD alone sets BUSY (10_state.md R14). -/
theorem State.writeReg_busy (s : State) {r : Reg} (v : Word) (hr : r ≠ .cmd) : (s.writeReg r v).busy = s.busy := by
  cases r with
  | cmd => exact absurd rfl hr
  | status => simp only [State.writeReg, State.writeStatus_eq]
  | _ => rfl

/-- STATUS alone moves WERR, and only to clear it for a 1 in bit 9 (10_state.md R17). -/
theorem State.writeReg_werr (s : State) (r : Reg) (v : Word) :
    (s.writeReg r v).werr = if r = .status ∧ v.getLsbD 9 = true then false else s.werr := by
  cases r with
  | status => simp [State.writeReg, State.writeStatus_eq]
  | _ => rfl

/-- No HOST access writes CODE or a result register. -/
theorem hostAccess_results {op : HostOp} {s t : State} (h : hostAccess op s = .next t) :
    t.code = s.code ∧ t.txLen = s.txLen ∧ t.txCrc = s.txCrc ∧ t.rxHdr = s.rxHdr ∧ t.rxAck = s.rxAck ∧
      t.rxCrc = s.rxCrc ∧ t.rxCalc = s.rxCalc := by
  rcases hostAccess_write_cases h with ht | ⟨-, rfl⟩ | ⟨-, r, v, -, rfl⟩ | ⟨-, b, k, v, -, -, -, -, rfl⟩
  · rw [ht]; simp
  · simp
  · rw [State.writeReg_frame]; simp
  · simp [State.writeWindow]

/-- A HOST access leaves a byte of a buffer unless it writes the word that holds it (20_memory.md R46). -/
theorem hostAccess_bufByte {op : HostOp} {s t : State} (hmax : s.cfg.maxPayload ≤ 65535)
    (h : hostAccess op s = .next t) (b : Buf) {i : Nat} (hi : i < b.capacity s.cfg) :
    t.bufByte b i = s.bufByte b i ∨
    (b ≠ .txbuf ∧ s.busy = false ∧ ∃ v, op = .write 4 (s.cfg.base + (b.base + (i - i % 4))) v) := by
  rcases hostAccess_write_cases h with ht | ⟨-, rfl⟩ | ⟨-, r, v, -, rfl⟩ | ⟨hb, b', k, v, htx, hk, hcap, hop, rfl⟩
  · left; rw [ht]; rfl
  · exact .inl rfl
  · left; rw [State.writeReg_frame]; rfl
  · rw [s.bufByte_writeWindow hmax b' hcap v b hi]
    by_cases hin : b = b' ∧ k ≤ i ∧ i < k + 4
    · obtain ⟨rfl, hlo, hhi⟩ := hin
      obtain rfl : k = i - i % 4 := by omega
      exact .inr ⟨htx, hb, v, hop⟩
    · exact .inl (if_neg hin)

/-! ### What the ENGINE's step changes -/

/-- The ENGINE's step writes no buffer but TXBUF (45_frame.md R105). -/
theorem engineStep_bufByte {s t : State} (hmax : s.cfg.maxPayload ≤ 65535) (h : engineStep s = .next t) {b : Buf}
    (hb : b ≠ .txbuf) {i : Nat} (hi : i < b.capacity s.cfg) : t.bufByte b i = s.bufByte b i := by
  rcases engineStep_cases h with ⟨-, rfl⟩ | ⟨c, -, hc⟩
  · rfl
  · obtain ⟨-, -, -, -, hmem⟩ := commandsLeaveTheRestUnchanged c s t hc
    have hlen := s.hdrLen.isLt
    have hwindow := hi.trans (Buf.capacity_lt_window hmax b)
    refine hmem _ ?_
    cases b with
    | txbuf => exact absurd rfl hb
    | pbuf => simp only [Buf.base]; omega
    | rxbuf => simp only [Buf.base]; omega

/-- A FRAME_ENCODE that ends with OK leaves TXBUF from the new TX_LEN up; one that fails, and every other command,
leaves the whole transmit side (45_frame.md R105). -/
theorem engineStep_transmit {s t : State} (h : engineStep s = .next t) :
    (decode s.cmdLatch = .ok .frameEncode ∧ exec .frameEncode s = .next t ∧ t.code = .ok ∧
      ∀ i, t.txLen.toNat ≤ i → t.bufByte .txbuf i = s.bufByte .txbuf i) ∨
    (t.txLen = s.txLen ∧ t.txCrc = s.txCrc ∧ ∀ i, t.bufByte .txbuf i = s.bufByte .txbuf i) := by
  rcases engineStep_cases h with ⟨-, rfl⟩ | ⟨c, hd, hc⟩
  · exact .inr ⟨rfl, rfl, fun _ => rfl⟩
  · by_cases hce : c = .frameEncode
    · subst hce
      rcases execFrameEncode_cases hc with ⟨-, rfl⟩ | ⟨hfits, -⟩
      · exact .inr ⟨rfl, rfl, fun _ => rfl⟩
      · obtain ⟨u, hu, hrest, hlen, -, -, hmem⟩ := execFrameEncode_frame hfits
        cases hu.symm.trans hc
        refine .inl ⟨hd, hc, by rw [hrest], fun i hi => hmem _ ?_⟩
        simp only [Buf.base]
        omega
    · obtain ⟨-, -, htx, -⟩ := commandsLeaveTheRestUnchanged c s t hc
      obtain ⟨hlen, hcrc, hmem⟩ := htx hce
      exact .inr ⟨hlen, hcrc, fun i => hmem _⟩

/-- A FRAME_DECODE that reached the CRC check ends with OK or INTEGRITY_ERROR; an earlier failure, and every other
command, leaves the receive side (45_frame.md R111 to R114). -/
theorem engineStep_receive {s t : State} (h : engineStep s = .next t) :
    (decode s.cmdLatch = .ok .frameDecode ∧ exec .frameDecode s = .next t ∧
      (t.code = .ok ∨ (t.code = .integrityError ∧ t.rxHdr = s.rxHdr ∧ t.rxAck = s.rxAck))) ∨
    (t.rxHdr = s.rxHdr ∧ t.rxAck = s.rxAck ∧ t.rxCrc = s.rxCrc ∧ t.rxCalc = s.rxCalc) := by
  rcases engineStep_cases h with ⟨-, rfl⟩ | ⟨c, hd, hc⟩
  · exact .inr ⟨rfl, rfl, rfl, rfl⟩
  · by_cases hcd : c = .frameDecode
    · subst hcd
      rcases execFrameDecode_cases hc with ⟨-, rfl⟩ | ⟨-, -, rfl⟩ | ⟨-, -, -, rfl⟩ | ⟨-, -, -, rfl⟩
      · exact .inr ⟨rfl, rfl, rfl, rfl⟩
      · exact .inr ⟨rfl, rfl, rfl, rfl⟩
      · exact .inl ⟨hd, hc, .inr ⟨rfl, rfl, rfl⟩⟩
      · exact .inl ⟨hd, hc, .inl rfl⟩
    · obtain ⟨-, -, -, hrx, -⟩ := commandsLeaveTheRestUnchanged c s t hc
      exact .inr (hrx hcd)

/-- The ENGINE's step leaves R unless it is a CRC command that ends with OK (10_state.md R12). -/
theorem engineStep_r {s t : State} (h : engineStep s = .next t) :
    t.r = s.r ∨ ∃ i, decode s.cmdLatch = .ok i ∧ i ≠ .frameEncode ∧ i ≠ .frameDecode ∧ exec i s = .next t ∧
      t.code = .ok := by
  rcases engineStep_cases h with ⟨-, rfl⟩ | ⟨i, hd, hi⟩
  · exact .inl rfl
  · rcases exec_cases hi with ⟨c, rfl⟩ | ⟨hne, hnd, v, rfl⟩ | ⟨-, -, rfl⟩ | ⟨-, a, b, rfl⟩ | ⟨-, a, b, c, d, rfl⟩
    case inr.inr.inl => exact .inr ⟨i, hd, hne, hnd, hi, rfl⟩
    all_goals exact .inl rfl

/-- The ENGINE's step leaves the HOST's side. -/
theorem engineStep_hostSide {s t : State} (h : engineStep s = .next t) :
    t.werr = s.werr ∧ t.prog = s.prog ∧ t.sched = s.sched ∧ t.replies = s.replies := by
  rcases engineStep_cases h with ⟨-, rfl⟩ | ⟨i, -, hi⟩
  · exact ⟨rfl, rfl, rfl, rfl⟩
  · obtain ⟨⟨-, -, hwerr, -, -, -, -, -, hprog, hsched, hreplies⟩, -⟩ := commandsLeaveTheRestUnchanged i s t hi
    exact ⟨hwerr, hprog, hsched, hreplies⟩

/-- The ENGINE's step clears BUSY. -/
theorem engineStep_idle {s t : State} (h : engineStep s = .next t) : t.busy = false := by
  obtain ⟨u, hu, hidle⟩ := engineStep_ends_idle s
  cases hu.symm.trans h
  exact hidle

/-! ### What a step changes -/

/-- Settles O48: a HOST access leaves R, and the ENGINE's step moves it in a CRC command alone (10_state.md R12). -/
theorem accumulatorChangesOnlyByCrcCommands : Obligations.AccumulatorChangesOnlyByCrcCommands := by
  intro s t h hr
  rcases step_cases h with ⟨more, op, rest, -, ha⟩ | ⟨more, hn, he⟩ | ⟨more, d, hs, -⟩ | ⟨more, rfl⟩
  · exact absurd (hostAccess_r ha) hr
  · obtain hsame | ⟨i, hd, hne, hnd, hi, hcode⟩ := engineStep_r he
    · exact absurd hsame hr
    · exact .inr ⟨more, i, hn, hd, hne, hnd, hi, engineStep_idle he, hcode⟩
  · exact .inl ⟨d, more, hs⟩
  · exact absurd rfl hr

/-- Settles O49: a HOST access reaches neither TX_LEN, TX_CRC nor TXBUF, and of the commands FRAME_ENCODE alone does
(10_state.md R23, R30). -/
theorem transmitSideChangesOnlyByFrameEncode : Obligations.TransmitSideChangesOnlyByFrameEncode := by
  rintro s t ⟨⟨-, hmax, -⟩, -⟩ h
  rcases step_cases h with ⟨more, op, rest, -, ha⟩ | ⟨more, hn, he⟩ | ⟨more, d, hs, -⟩ | ⟨more, rfl⟩
  · obtain ⟨-, hlen, hcrc, -⟩ := hostAccess_results ha
    refine .inr (.inr ⟨hlen, hcrc, fun i hi => ?_⟩)
    obtain hsame | ⟨hne, -⟩ := hostAccess_bufByte (s := s.pop rest more) hmax ha .txbuf hi
    · exact hsame
    · exact absurd rfl hne
  · obtain ⟨hd, hexec, hcode, hbytes⟩ | ⟨hlen, hcrc, hbytes⟩ := engineStep_transmit he
    · exact .inr (.inl ⟨more, hn, hd, hexec, engineStep_idle he, hcode, fun i _ => hbytes i⟩)
    · exact .inr (.inr ⟨hlen, hcrc, fun i _ => hbytes i⟩)
  · exact .inl ⟨d, more, hs⟩
  · exact .inr (.inr ⟨rfl, rfl, fun _ _ => rfl⟩)

/-- Settles O50: the ENGINE's step leaves PBUF and RXBUF, and a HOST access every byte outside the word it writes
(10_state.md R30). -/
theorem hostBuffersChangeOnlyByBusWrites : Obligations.HostBuffersChangeOnlyByBusWrites := by
  rintro s t b i ⟨⟨-, hmax, -⟩, -⟩ h hb hi hne
  rcases step_cases h with ⟨more, op, rest, hn, ha⟩ | ⟨more, -, he⟩ | ⟨more, d, hs, -⟩ | ⟨more, rfl⟩
  · obtain hsame | ⟨-, hidle, v, rfl⟩ := hostAccess_bufByte (s := s.pop rest more) hmax ha b hi
    · exact absurd hsame hne
    · exact .inr ⟨hidle, v, rest, more, hn⟩
  · exact absurd (engineStep_bufByte (s := { s with sched := more }) hmax he hb hi) hne
  · exact .inl ⟨d, more, hs⟩
  · exact absurd rfl hne

/-- Settles O51: of the HOST's writes CMD's alone sets BUSY, and the ENGINE's step and a reset clear it
(10_state.md R14, R15). -/
theorem busyRisesOnlyByACmdWrite : Obligations.BusyRisesOnlyByACmdWrite := by
  intro s t h hidle hbusy
  rcases step_cases h with ⟨more, op, rest, hn, ha⟩ | ⟨more, ⟨hb, -⟩, -⟩ | ⟨more, d, -, rfl⟩ | ⟨more, rfl⟩
  · rcases hostAccess_write_cases ha with ht | ⟨hb, -⟩ | ⟨-, r, v, rfl, rfl⟩ | ⟨-, b, k, v, -, -, -, -, rfl⟩
    · rw [ht] at hbusy; exact absurd (hidle.symm.trans hbusy) nofun
    · exact absurd (hidle.symm.trans hb) nofun
    · obtain rfl : r = .cmd := by
        by_contra hr
        rw [State.writeReg_busy _ v hr] at hbusy
        exact absurd (hidle.symm.trans hbusy) nofun
      exact ⟨v, rest, more, hn, rfl, rfl⟩
    · exact absurd (hidle.symm.trans hbusy) nofun
  · exact absurd (hidle.symm.trans hb) nofun
  · exact absurd hbusy nofun
  · exact absurd (hidle.symm.trans hbusy) nofun

/-- Settles O52: of the HOST's writes STATUS's alone clears WERR, and the ENGINE's step leaves it
(60_exceptions.md R136). -/
theorem writeErrorIsSticky : Obligations.WriteErrorIsSticky := by
  intro s t h hset hclear
  have hne : t.werr ≠ s.werr := by rw [hset, hclear]; decide
  rcases step_cases h with ⟨more, op, rest, hn, ha⟩ | ⟨more, -, he⟩ | ⟨more, d, hs, -⟩ | ⟨more, rfl⟩
  · rcases hostAccess_write_cases ha with ht | ⟨-, rfl⟩ | ⟨hb, r, v, rfl, rfl⟩ | ⟨-, b, k, v, -, -, -, -, rfl⟩
    · rw [ht] at hne; exact absurd rfl hne
    · exact absurd hclear nofun
    · rw [State.writeReg_werr] at hne
      by_cases hr : r = .status ∧ v.getLsbD 9 = true
      · obtain ⟨rfl, h9⟩ := hr
        exact .inr ⟨hb, v, rest, more, hn, h9⟩
      · rw [if_neg hr] at hne; exact absurd rfl hne
    · exact absurd rfl hne
  · obtain ⟨hwerr, -⟩ := engineStep_hostSide he
    exact absurd hwerr hne
  · exact .inl ⟨d, more, hs⟩
  · exact absurd rfl hne

/-- Settles O54: a HOST access reaches no receive register, and of the commands a FRAME_DECODE past the sentinels
alone does (10_state.md R27 to R29). -/
theorem receiveSideChangesOnlyByFrameDecode : Obligations.ReceiveSideChangesOnlyByFrameDecode := by
  intro s t h
  rcases step_cases h with ⟨more, op, rest, -, ha⟩ | ⟨more, hn, he⟩ | ⟨more, d, hs, -⟩ | ⟨more, rfl⟩
  · obtain ⟨-, -, -, hrx⟩ := hostAccess_results ha
    exact .inr (.inr hrx)
  · obtain ⟨hd, hexec, hcode⟩ | hrx := engineStep_receive he
    · exact .inr (.inl ⟨more, hn, hd, hexec, engineStep_idle he, hcode⟩)
    · exact .inr (.inr hrx)
  · exact .inl ⟨d, more, hs⟩
  · exact .inr (.inr ⟨rfl, rfl, rfl, rfl⟩)

/-! ### Memory stays canonical and inside the buffers -/

/-- A byte index below the capacity is an offset of the buffers. -/
theorem inBuffers_base_add {c : Config} (b : Buf) {k : Nat} (hk : k < b.capacity c) : inBuffers c (b.base + k) := by
  cases b
  · exact .inl ⟨Nat.le_add_right _ _, Nat.add_lt_add_left hk _⟩
  · exact .inr (.inl ⟨Nat.le_add_right _ _, Nat.add_lt_add_left hk _⟩)
  · exact .inr (.inr ⟨Nat.le_add_right _ _, Nat.add_lt_add_left hk _⟩)

/-- Being the hardware's is a matter of the parameters and of memory alone. -/
theorem State.wf_congr {s t : State} (hcfg : t.cfg = s.cfg) (hmem : t.mem = s.mem) (h : s.wf) : t.wf := by
  unfold State.wf
  rwa [hcfg, hmem]

/-- A store within a buffer's capacity keeps memory canonical and inside the buffers. -/
theorem State.storeBytes_wf {s : State} (h : s.wf) (b : Buf) {i : Nat} {bs : List Byte}
    (hfit : i + bs.length ≤ b.capacity s.cfg) : (s.storeBytes b i bs).wf := by
  obtain ⟨hcfg, hmem, hin⟩ := h
  refine ⟨hcfg, Memory.writeBytes_wf hmem _ _, fun c hc => ?_⟩
  rcases Memory.mem_writeBytes hc with hold | ⟨hlo, hhi⟩
  · exact hin c hold
  · obtain ⟨k, hk⟩ := Nat.exists_eq_add_of_le ((Nat.le_add_right _ i).trans hlo)
    rw [hk]
    exact inBuffers_base_add b (Nat.lt_of_lt_of_le (by omega) hfit)

theorem State.writeWindow_wf {s : State} (h : s.wf) (b : Buf) {k : Nat} (hk : k < b.capacity s.cfg) (v : Word) :
    (s.writeWindow b k v).wf := by
  refine State.storeBytes_wf h b ?_
  rw [List.length_take]
  omega

/-- The draw of a reset is cut to the capacities (70_reset_and_hazards.md R150). -/
theorem State.afterReset_wf {s : State} (hcfg : s.cfg.WellFormed) (d : InitBuf) : (State.afterReset d s).wf := by
  have hempty : ({ s with mem := [] } : State).wf := ⟨hcfg, Memory.nil_wf, nofun⟩
  have hfit : ∀ (b : Buf) (bs : List Byte), 0 + (bs.take (b.capacity s.cfg)).length ≤ b.capacity s.cfg :=
    fun b bs => (Nat.zero_add _).le.trans (List.length_take_le _ _)
  have hp := State.storeBytes_wf hempty .pbuf (hfit .pbuf d.pbuf)
  have ht := State.storeBytes_wf hp .txbuf (hfit .txbuf d.txbuf)
  have hr := State.storeBytes_wf ht .rxbuf (hfit .rxbuf d.rxbuf)
  exact State.wf_congr (t := State.afterReset d s) rfl rfl hr

theorem exec_wf {i : Instr} {s t : State} (hwf : s.wf) (h : exec i s = .next t) : t.wf := by
  rcases exec_cases h with ⟨c, rfl⟩ | ⟨-, -, v, rfl⟩ | ⟨-, hfits, rfl⟩ | ⟨-, a, b, rfl⟩ | ⟨-, a, b, c, d, rfl⟩
  case inr.inr.inl =>
    refine State.wf_congr rfl rfl (State.storeBytes_wf hwf .txbuf (i := 0)
      (bs := wireFrame s.hdrClass s.hdrMsg s.hdrLen s.payload) ?_)
    rw [wireFrame_length, State.payload_length, Buf.capacity]
    omega
  all_goals exact State.wf_congr rfl rfl hwf

theorem hostAccess_wf {op : HostOp} {s t : State} (hwf : s.wf) (h : hostAccess op s = .next t) : t.wf := by
  rcases hostAccess_write_cases h with ht | ⟨-, rfl⟩ | ⟨-, r, v, -, rfl⟩ | ⟨-, b, k, v, -, -, hk, -, rfl⟩
  · rw [ht]; exact State.wf_congr rfl rfl hwf
  · exact State.wf_congr rfl rfl hwf
  · rw [State.writeReg_frame]; exact State.wf_congr rfl rfl hwf
  · exact State.writeWindow_wf hwf b hk v

/-- Every step keeps the parameters in range and memory canonical and inside the buffers. -/
theorem step_wf {s t : State} (hwf : s.wf) (h : step s = .next t) : t.wf := by
  rcases step_cases h with ⟨more, op, rest, -, ha⟩ | ⟨more, -, he⟩ | ⟨more, d, -, rfl⟩ | ⟨more, rfl⟩
  · exact hostAccess_wf (s := s.pop rest more) hwf ha
  · rcases engineStep_cases he with ⟨-, rfl⟩ | ⟨i, -, hi⟩
    · exact State.wf_congr rfl rfl hwf
    · exact exec_wf (s := { s with sched := more }) hwf hi
  · obtain ⟨hcfg, -⟩ := hwf
    exact State.afterReset_wf (s := { s with sched := more }) hcfg d
  · exact State.wf_congr rfl rfl hwf

/-! ### TX_LEN and TX_CRC describe TXBUF -/

/-- A frame of the payload's own length in TXBUF, its size in TX_LEN and its CRC in TX_CRC. -/
theorem State.txConsistent_of_wireFrame {s : State} {cl mg : Byte} {l : Half} {p : List Byte}
    (hl : l.toNat = p.length) (hmax : p.length ≤ s.cfg.maxPayload) (hlen : s.txLen.toNat = 10 + p.length)
    (hcrc : s.txCrc = frameCrc cl mg l p) (hframe : s.bufBytes .txbuf 0 (10 + p.length) = wireFrame cl mg l p) :
    s.txConsistent := by
  obtain ⟨-, hbody, -, -⟩ := State.parts_of_bufBytes_eq_wireFrame hframe
  obtain ⟨hcl, hmg, -, hpayload⟩ := State.parts_of_bufBytes_eq_frameBody hbody
  have hhalf : BitVec.ofNat 16 p.length = l := by rw [← hl, BitVec.ofNat_toNat, BitVec.setWidth_eq]
  refine .inr ?_
  rw [hlen, Nat.add_sub_cancel_left, hcl, hmg, hpayload, hhalf]
  exact ⟨Nat.le_add_right _ _, by omega, hframe, hcrc⟩

/-- The description reads TX_LEN, TX_CRC and the bytes of TXBUF, and nothing else. -/
theorem State.txConsistent_congr {s t : State} (hcfg : t.cfg = s.cfg) (hlen : t.txLen = s.txLen)
    (hcrc : t.txCrc = s.txCrc) (hb : ∀ i, i < Buf.txbuf.capacity s.cfg → t.bufByte .txbuf i = s.bufByte .txbuf i)
    (h : s.txConsistent) : t.txConsistent := by
  unfold State.txConsistent
  rw [hlen, hcrc, hcfg]
  rcases h with hzero | ⟨hlo, hhi, h⟩
  · exact .inl hzero
  · have hspan : ∀ i n, i + n ≤ s.txLen.toNat → t.bufBytes .txbuf i n = s.bufBytes .txbuf i n := fun i n hin =>
      State.bufBytes_ext fun j _ => hb _ (by simp only [Buf.capacity]; omega)
    rw [hspan 0 _ (by omega), hspan 5 _ (by omega), hb 1 (by simp only [Buf.capacity]; omega),
      hb 2 (by simp only [Buf.capacity]; omega)]
    exact .inr ⟨hlo, hhi, h⟩

/-- A FRAME_ENCODE that ends with OK leaves TX_LEN and TX_CRC describing what it put into TXBUF. -/
theorem execFrameEncode_txConsistent {s t : State} (h : execFrameEncode s = .next t) (hok : t.code = .ok) :
    t.txConsistent := by
  rcases execFrameEncode_cases h with ⟨-, rfl⟩ | ⟨hfits, -⟩
  · cases hok
  · obtain ⟨u, hu, hrest, hlen, hcrc, hframe, -⟩ := execFrameEncode_frame hfits
    cases hu.symm.trans h
    have hcfg : t.cfg = s.cfg := by rw [hrest]
    rw [← s.payload_length] at hlen hframe
    exact State.txConsistent_of_wireFrame s.payload_length.symm (by rw [hcfg, s.payload_length]; exact hfits) hlen hcrc
      hframe

/-! ### The invariant -/

/-- A reset leaves TX_LEN = 0 and the drawn bytes inside the buffers. -/
theorem State.afterReset_inv {s : State} (hcfg : s.cfg.WellFormed) (d : InitBuf) : (State.afterReset d s).Inv :=
  ⟨State.afterReset_wf hcfg d, .inl rfl⟩

/-- Settles O46: a power-up is a reset event, and `State.reset` is the power-up that draws nothing
(70_reset_and_hazards.md R150). -/
theorem powerUpMeetsTheStateInvariant : Obligations.PowerUpMeetsTheStateInvariant := by
  have hpower : ∀ (c : Config) (d : InitBuf) (prog : List HostOp) (sched : List Turn), c.WellFormed →
      (State.powerUp c d prog sched).Inv := fun c d prog sched hc => by
    rw [State.powerUp_eq_afterReset]
    exact State.afterReset_inv hc d
  have hreset : State.reset = State.powerUp Config.reference { pbuf := [], txbuf := [], rxbuf := [] } [] [] := rfl
  exact ⟨hpower, hreset, hreset ▸ hpower Config.reference _ [] [] (by decide)⟩

/-- Settles O47: memory by `step_wf`; the transmit side by O49: a reset, a FRAME_ENCODE, or unchanged
(92_eei_decisions.md D27). -/
theorem everyStepKeepsTheStateInvariant : Obligations.EveryStepKeepsTheStateInvariant := by
  rintro s t ⟨hwf, htx⟩ h
  refine ⟨step_wf hwf h, ?_⟩
  rcases transmitSideChangesOnlyByFrameEncode s t hwf h with ⟨d, rest, hs⟩ | ⟨more, -, -, hexec, -, hok, -⟩ |
    ⟨hlen, hcrc, hbytes⟩
  · cases (step_reset hs).symm.trans h
    exact .inl rfl
  · exact execFrameEncode_txConsistent hexec hok
  · exact State.txConsistent_congr (step_cfg h) hlen hcrc hbytes htx

end Sys2Proof.Machine

/-! SUPPORT. What the registers read: STATUS's fields, the length and operand registers, the result registers at their
offsets, and an access at no offset at all (10_state.md R15 to R29, 20_memory.md R41). -/

namespace Sys2Proof.Machine

/-! ### Bits that read 0 -/

/-- A field of a word is 0 when a mask that covers the field meets no bit of the word. -/
theorem extractLsb'_eq_zero_of_and {w m : Word} {i n : Nat} (h : w &&& m = 0)
    (hm : m.extractLsb' i n = BitVec.allOnes n) : w.extractLsb' i n = 0 := by
  calc w.extractLsb' i n = w.extractLsb' i n &&& m.extractLsb' i n := by rw [hm, BitVec.and_allOnes]
    _ = (0 : Word).extractLsb' i n := by rw [← BitVec.extractLsb'_and, h]
    _ = 0 := by simp

/-- A length register reads 0 above bit 16 (10_state.md R23, R25). -/
theorem extractLsb'_setWidth_high (x : BitVec 17) : (x.setWidth 32).extractLsb' 17 15 = 0 := by
  apply BitVec.eq_of_getLsbD_eq
  intro i hi
  simp

/-- Its 17 bits are read as they are. -/
theorem extractLsb'_setWidth_low (x : BitVec 17) : (x.setWidth 32).extractLsb' 0 17 = x := by
  apply BitVec.eq_of_getLsbD_eq
  intro i hi
  simp [hi, (by omega : i < 32)]

/-- Dropping the bits above 16 is a mask. -/
theorem setWidth_setWidth_eq_and (v : Word) : (v.setWidth 17).setWidth 32 = v &&& 0x0001FFFF := by
  apply BitVec.eq_of_toNat_eq
  rw [BitVec.toNat_and, show (0x0001FFFF : Word).toNat = 2 ^ 17 - 1 from rfl, Nat.and_two_pow_sub_one_eq_mod,
    BitVec.toNat_setWidth_of_le (by decide), BitVec.toNat_setWidth]

/-- Settles O39: the mask of `State.statusWord_fields` covers both reserved fields, and a CMD write, accepted or
not, is no `finish` (10_state.md R15, R16). -/
theorem statusFieldsAndCodes : Obligations.StatusFieldsAndCodes := by
  refine ⟨fun s => ?_, rfl, rfl, rfl, rfl, rfl, rfl⟩
  obtain ⟨hcode, hbusy, hwerr, hreserved⟩ := s.statusWord_fields
  refine ⟨hcode, extractLsb'_eq_zero_of_and hreserved (by decide), hbusy, hwerr,
    extractLsb'_eq_zero_of_and hreserved (by decide), fun v => ?_⟩
  cases hb : s.busy with
  | true => rw [writeTarget_busy hb]; rfl
  | false => rw [writeTarget_idle hb]; rfl

/-! ### Length and operand registers -/

/-- Settles O41: the write drops bits 31:17, no command writes RX_LEN, and 17 bits are read with zeros above
(10_state.md R23, R25). -/
theorem lengthRegistersHoldSeventeenBits : Obligations.LengthRegistersHoldSeventeenBits := by
  refine ⟨fun s v hb => ?_, fun i s t h => ?_, fun s => ⟨extractLsb'_setWidth_high _, extractLsb'_setWidth_high _⟩⟩
  · rw [writeTarget_idle hb]
    exact setWidth_setWidth_eq_and v
  · obtain ⟨-, -, -, -, -, hlen⟩ := exec_operands h
    simp only [State.readReg, hlen]

/-- Settles O42: the four registers are stored whole, and no command writes an operand register
(10_state.md R18, R20 to R22). -/
theorem operandRegistersReadBackWhatWasWritten : Obligations.OperandRegistersReadBackWhatWasWritten := by
  refine ⟨fun s r v hr hb => ?_, fun s r i t hr h => ?_⟩
  · rw [writeTarget_idle hb]
    fin_cases hr <;> rfl
  · obtain ⟨-, hseed, hword, hspan, hhdr, -⟩ := exec_operands h
    fin_cases hr
    · exact hseed
    · exact hword
    · exact hspan
    · exact hhdr

/-! ### Result registers -/

/-- A word read at a register's offset is the register's (10_state.md R11, 20_memory.md R45). -/
theorem busRead_reg (s : State) (r : Reg) : s.busRead 4 r.offset = { error := false, data := s.readReg r } :=
  busRead_ok (busTarget_reg s.cfg r)

/-- TX_LEN as a number. -/
theorem State.readReg_txLen_toNat (s : State) : (s.readReg .txLen).toNat = s.txLen.toNat :=
  BitVec.toNat_setWidth_of_le (by decide)

/-- Settles O53: each result register reads its field, and the fields are what the last FRAME_ENCODE or FRAME_DECODE
put there (45_frame.md R105, R112 to R114). -/
theorem resultRegistersReadWhatTheirCommandLeft : Obligations.ResultRegistersReadWhatTheirCommandLeft := by
  refine ⟨fun s => ⟨⟨?_, ?_⟩, busRead_reg s .txCrc, busRead_reg s .rxHdr, busRead_reg s .rxCrc, busRead_reg s .rxCalc,
    busRead_reg s .rxAck⟩, ?_, ?_⟩
  · exact (congrArg (·.data.extractLsb' 0 17) (busRead_reg s .txLen)).trans (extractLsb'_setWidth_low _)
  · exact (congrArg (·.data.extractLsb' 17 15) (busRead_reg s .txLen)).trans (extractLsb'_setWidth_high _)
  · rintro s t _ rfl h hok
    rcases execFrameEncode_cases h with ⟨-, rfl⟩ | ⟨hfits, -⟩
    · cases hok
    · obtain ⟨u, hu, -, hlen, hcrc, -, -⟩ := execFrameEncode_frame hfits
      cases hu.symm.trans h
      exact ⟨(congrArg (·.data.toNat) (busRead_reg t .txLen)).trans (t.readReg_txLen_toNat.trans hlen),
        (congrArg (·.data) (busRead_reg t .txCrc)).trans hcrc⟩
  · rintro s t _ rfl h
    have hread : ∀ r : Reg, (t.busRead 4 r.offset).data = t.readReg r := fun r => congrArg (·.data) (busRead_reg t r)
    have hrecv := s.bytesBE32_rxBE32 (s.rxSize - 5)
    rcases execFrameDecode_cases h with ⟨-, rfl⟩ | ⟨-, -, rfl⟩ | ⟨-, -, -, rfl⟩ | ⟨-, -, -, rfl⟩
    · exact ⟨nofun, nofun⟩
    · exact ⟨nofun, nofun⟩
    · exact ⟨fun _ => ⟨(congrArg bytesBE32 (hread .rxCrc)).trans hrecv, hread .rxCalc⟩, nofun⟩
    · exact ⟨fun _ => ⟨(congrArg bytesBE32 (hread .rxCrc)).trans hrecv, hread .rxCalc⟩,
        fun _ => ⟨hread .rxHdr, (hread .rxAck).trans s.rxFrameAck_eq⟩⟩

/-! ### No offset at all -/

/-- A bus address outside the window has no offset (00_scope.md R4). -/
theorem Config.offset_outside {c : Config} {addr : Nat} (h : addr < c.base ∨ c.base + 0x80000 ≤ addr) :
    Config.offset? c addr = none := by
  refine if_neg fun ⟨hlo, hhi⟩ => ?_
  have : fceSpan = 0x80000 := rfl
  omega

/-- Settles O32: the offset is looked up before anything else of the access (20_memory.md R41, log entry 8). -/
theorem accessOutsideTheWindowIsRefused : Obligations.AccessOutsideTheWindowIsRefused := by
  intro s size addr op rest more hout hn hop
  have hnone : Config.offset? (s.pop rest more).cfg addr = none := Config.offset_outside hout
  rw [step_host hn]
  obtain rfl | ⟨v, rfl⟩ := hop
  · simp only [hostAccess, hnone]
  · simp only [hostAccess, hnone]

end Sys2Proof.Machine

/-! SUPPORT. Runs of the HOST's programs on the default turns: POLL and `DO` (30_encoding.md R67), `WRBYTES`, and the
whole-image sequence (40_crc.md R89). -/

namespace Sys2Proof.Machine

/-! ### POLL -/

/-- STATUS's bit 8 is BUSY, so a POLL of an idle FCE records STATUS and ends. -/
theorem hostAccess_poll_idle {s : State} (hb : s.busy = false) : hostAccess .poll s = .next (s.reply s.statusWord) := by
  obtain ⟨-, hbit, -⟩ := s.statusWord_fields
  exact if_neg (by rw [State.readTarget, State.readReg, hbit, hb]; decide)

/-- While BUSY = 1 it stays at the program's head. -/
theorem hostAccess_poll_busy {s : State} (hb : s.busy = true) :
    hostAccess .poll s = .next { s.reply s.statusWord with prog := .poll :: s.prog } := by
  obtain ⟨-, hbit, -⟩ := s.statusWord_fields
  exact if_pos (by rw [State.readTarget, State.readReg, hbit, hb])

/-- Any number of HOST turns while a command is in progress are spent by the POLL. -/
theorem goodRun_polls {n : Nat} {s : State} {rest : List HostOp} (hb : s.busy = true)
    (hs : s.sched = List.replicate n .host) (hp : s.prog = .poll :: rest) :
    ∃ r, goodRun n s (s.withHostSide s.werr (.poll :: rest) [] r) := by
  induction n generalizing s with
  | zero => exact ⟨s.replies, (goodRun_zero ..).2 (by rw [← hp, ← show s.sched = [] from hs]; rfl)⟩
  | succ n ih =>
    have hstep := (step_host ⟨hp, .inl hs⟩).trans (hostAccess_poll_busy (s := s.pop rest (List.replicate n .host)) hb)
    obtain ⟨r, hrun⟩ := ih (s := s.withHostSide s.werr (.poll :: rest) (List.replicate n .host)
      (s.statusWord :: s.replies)) hb rfl rfl
    exact ⟨r, (goodRun_succ ..).2 ⟨_, hstep, hrun⟩⟩

/-- With a POLL next and no turn named, the ENGINE takes its step and the POLL then ends with STATUS as it is. -/
theorem goodRun_engine_poll {s u : State} {rest : List HostOp} (hb : s.busy = true) (hs : s.sched = [])
    (hp : s.prog = .poll :: rest) (hu : engineStep s = .next u) :
    goodRun 2 s ((u.pop rest []).reply u.statusWord) := by
  obtain ⟨-, hprog, hsched, -⟩ := engineStep_hostSide hu
  have hidle : u.busy = false := engineStep_idle hu
  have hengine : step s = .next u := by rw [step_engine ⟨hb, .inr ⟨hs, rfl⟩⟩, ← hs]; exact hu
  have hpoll : step u = .next ((u.pop rest []).reply u.statusWord) :=
    (step_host ⟨hprog.trans hp, .inr ⟨hsched.trans hs, hidle, rfl⟩⟩).trans
      (hostAccess_poll_idle (s := u.pop rest []) hidle)
  exact goodRun_trans (goodRun_one hengine) (goodRun_one hpoll)

/-- Settles O36: the HOST's turns are spent polling, the ENGINE's turn comes by default, and the next read of STATUS
is the POLL's last (30_encoding.md R67). -/
theorem pollEndsAfterAnyFiniteDelay : Obligations.PollEndsAfterAnyFiniteDelay := by
  intro n s rest hb hs hp
  obtain ⟨r, hpolls⟩ := goodRun_polls hb hs hp
  obtain ⟨u, hu, hidle⟩ := engineStep_ends_idle (s.withHostSide s.werr (.poll :: rest) [] r)
  exact ⟨_, goodRun_trans hpolls (goodRun_engine_poll hb rfl rfl hu), hidle, rfl, rfl⟩

/-! ### The lines of a program -/

/-- Some number of steps lead from one state to another without a bus error. -/
def Reaches (s t : State) : Prop := ∃ k, goodRun k s t

theorem Reaches.refl (s : State) : Reaches s s := ⟨0, (goodRun_zero s s).2 rfl⟩

theorem Reaches.trans {s t u : State} (h : Reaches s t) (h' : Reaches t u) : Reaches s u := by
  obtain ⟨j, hj⟩ := h
  obtain ⟨k, hk⟩ := h'
  exact ⟨j + k, goodRun_trans hj hk⟩

/-- Between two lines of the HOST's program: the FCE idle, `prog` still to come on default turns, and the parameters
and WERR as at its start. -/
structure State.Waits (c : Config) (w : Bool) (prog : List HostOp) (s : State) : Prop where
  cfg : s.cfg = c
  werr : s.werr = w
  idle : s.busy = false
  sched : s.sched = []
  prog : s.prog = prog

/-- `WR <target>, <value>`: one step, which does the target's rule. -/
theorem State.Waits.run_wr {c : Config} {w : Bool} {g : Target} {v : Word} {rest : List HostOp} {s : State}
    (h : s.Waits c w (wr c g v :: rest)) (hoff : g.offset < fceSpan) (hg : busTarget c 4 g.offset = .ok g) :
    Reaches s ((s.pop rest []).writeIdle g v) := by
  obtain ⟨rfl, -, hidle, hsched, hprog⟩ := h
  rw [← writeTarget_idle (s := s.pop rest []) hidle]
  exact ⟨1, goodRun_one (step_write hoff hg ⟨hprog, .inr ⟨hsched, hidle, rfl⟩⟩)⟩

/-- `WR` to a register whose rule neither starts a command nor moves WERR: the HOST waits again. -/
theorem State.Waits.run_wr_reg {c : Config} {w : Bool} {r : Reg} {v : Word} {rest : List HostOp} {s : State}
    (h : s.Waits c w (wr c (.reg r) v :: rest)) (hcmd : r ≠ .cmd) (hstatus : r ≠ .status) :
    ∃ t, Reaches s t ∧ t.Waits c w rest ∧ t = (s.pop rest []).writeReg r v := by
  refine ⟨_, h.run_wr (Nat.lt_of_le_of_lt r.offset_le (by decide)) (busTarget_reg c r), ?_, rfl⟩
  cases r with
  | cmd => exact absurd rfl hcmd
  | status => exact absurd rfl hstatus
  | _ => exact ⟨h.cfg, h.werr, h.idle, rfl, rfl⟩

/-- The state in which a command of the program runs: its word latched, its POLL next. -/
def State.commanded (i : Instr) (rest : List HostOp) (s : State) : State :=
  { s.pop (.poll :: rest) [] with cmdLatch := encode i, busy := true }

/-- `DO <mnemonic>`: the command runs as latched, and its POLL ends. -/
theorem State.Waits.run_doCmd {c : Config} {w : Bool} {i : Instr} {rest : List HostOp} {s u : State}
    (h : s.Waits c w (doCmd c i ++ rest)) (hu : exec i (s.commanded i rest) = .next u) :
    Reaches s ((u.pop rest []).reply u.statusWord) := by
  have hlatched : Reaches s (s.commanded i rest) := h.run_wr (g := .reg .cmd) (by decide) (busTarget_reg c .cmd)
  have hengine : engineStep (s.commanded i rest) = .next u :=
    (engineStep_legal (s := s.commanded i rest) (decode_encode i)).trans hu
  exact hlatched.trans ⟨2, goodRun_engine_poll rfl rfl rfl hengine⟩

/-- `DO` of a CRC command that sets R to `v` and ends with OK. -/
theorem State.Waits.run_doCmd_crc {c : Config} {w : Bool} {i : Instr} {v : Word} {rest : List HostOp} {s : State}
    (h : s.Waits c w (doCmd c i ++ rest))
    (hu : exec i (s.commanded i rest) = .next (((s.commanded i rest).setR v).finish .ok)) :
    ∃ t, Reaches s t ∧ t.Waits c w rest ∧ t.code = .ok ∧ t.r = v :=
  ⟨_, h.run_doCmd hu, ⟨h.cfg, h.werr, rfl, rfl, rfl⟩, rfl, rfl⟩

/-! ### WRBYTES -/

/-- `WRBYTES` is the word of the first four bytes, a byte past the last being 0, and then the rest
(30_encoding.md R67). -/
theorem wrBytes_eq_cons (c : Config) (b : Buf) (k : Nat) {bs : List Byte} (h : bs ≠ []) :
    wrBytes c b k bs =
      wr c (.buf b k) (le32 (bs.getD 0 0) (bs.getD 1 0) (bs.getD 2 0) (bs.getD 3 0)) ::
        wrBytes c b (k + 4) (bs.drop 4) := by
  match bs with
  | [] => exact absurd rfl h
  | [_] => rfl
  | [_, _] => rfl
  | [_, _, _] => rfl
  | _ :: _ :: _ :: _ :: _ => rfl

/-- A word of four given bytes, written to PBUF by a HOST that waits. -/
theorem State.Waits.run_wr_pbuf {c : Config} {w : Bool} {k : Nat} {f : Nat → Byte} {rest : List HostOp} {s : State}
    (h : s.Waits c w (wr c (.buf .pbuf k) (le32 (f 0) (f 1) (f 2) (f 3)) :: rest))
    (hmax : c.maxPayload ≤ 65535) (hk : k % 4 = 0) (hcap : k < c.maxPayload) :
    ∃ t, Reaches s t ∧ t.Waits c w rest ∧ t.r = s.r ∧ ∀ i, i < c.maxPayload →
      t.bufByte .pbuf i = if k ≤ i ∧ i < k + 4 then f (i - k) else s.bufByte .pbuf i := by
  have hwindow : k < 0x20000 := by omega
  have hoff : (Target.buf .pbuf k).offset < fceSpan := by simp only [Target.offset, Buf.base, fceSpan]; omega
  refine ⟨_, h.run_wr hoff (busTarget_buf c .pbuf hk hcap hwindow), ⟨h.cfg, h.werr, h.idle, rfl, rfl⟩, rfl, fun i hi => ?_⟩
  refine ((s.pop rest []).bufByte_writeWindow_same .pbuf k _ (h.cfg ▸ hi)).trans ?_
  by_cases hin : k ≤ i ∧ i < k + 4
  · rw [if_pos hin, if_pos hin]
    exact le32_byte f (by omega)
  · rw [if_neg hin, if_neg hin]
    rfl

/-- `WRBYTES PBUF+k`: the bytes stand in PBUF from k on, those before k and R are as before. -/
theorem State.Waits.run_wrBytes {c : Config} {w : Bool} {rest : List HostOp} (hmax : c.maxPayload ≤ 65535)
    (bs : List Byte) {k : Nat} {s : State} (h : s.Waits c w (wrBytes c .pbuf k bs ++ rest)) (hk : k % 4 = 0)
    (hfit : ∀ j, j < bs.length → k + j < c.maxPayload) :
    ∃ t, Reaches s t ∧ t.Waits c w rest ∧ t.r = s.r ∧
      (∀ j, j < bs.length → t.bufByte .pbuf (k + j) = bs.getD j 0) ∧
      ∀ i, i < k → i < c.maxPayload → t.bufByte .pbuf i = s.bufByte .pbuf i := by
  by_cases hbs : bs = []
  · subst hbs
    exact ⟨s, .refl s, h, rfl, nofun, fun _ _ _ => rfl⟩
  · have hpos : 0 < bs.length := List.length_pos_iff.2 hbs
    rw [wrBytes_eq_cons c .pbuf k hbs] at h
    obtain ⟨t, hst, ht, htr, htb⟩ := State.Waits.run_wr_pbuf (f := fun j => bs.getD j 0) h hmax hk (hfit 0 hpos)
    obtain ⟨u, htu, hu, hur, hub, hold⟩ := State.Waits.run_wrBytes hmax (bs.drop 4) ht (by omega)
      (fun j hj => by rw [List.length_drop] at hj; have := hfit (4 + j) (by omega); omega)
    refine ⟨u, hst.trans htu, hu, hur.trans htr, fun j hj => ?_, fun i hi hm => ?_⟩
    · by_cases h4 : j < 4
      · rw [hold _ (by omega) (hfit j hj), htb _ (hfit j hj), if_pos (by omega), Nat.add_sub_cancel_left]
      · obtain ⟨m, rfl⟩ := Nat.exists_eq_add_of_le (Nat.le_of_not_lt h4)
        rw [← Nat.add_assoc, hub m (by rw [List.length_drop]; omega)]
        simp [List.getD_eq_getElem?_getD]
    · rw [hold i (by omega) hm, htb i hm, if_neg (by omega)]
termination_by bs.length
decreasing_by rw [List.length_drop]; omega

/-! ### The whole-image sequence -/

/-- One block: its bytes stand at PBUF+0, CRC_SPAN covers them, and CRC_FEED_BUF folds them into R
(40_crc.md R89). -/
theorem State.Waits.run_feedBlock {c : Config} {w : Bool} {block : List Byte} {rest : List HostOp} {s : State}
    (h : s.Waits c w (feedBlock c block ++ rest)) (hmax : c.maxPayload ≤ 65535) (hlen : block.length ≤ c.maxPayload) :
    ∃ t, Reaches s t ∧ t.Waits c w rest ∧ t.code = .ok ∧ t.r = crcFold s.r block := by
  rw [feedBlock, List.append_assoc, List.append_assoc] at h
  obtain ⟨t, hst, ht, htr, htb, -⟩ := State.Waits.run_wrBytes hmax block h rfl fun j hj => by omega
  obtain ⟨u, htu, hu, hueq⟩ := State.Waits.run_wr_reg ht nofun nofun
  have hspanReg : u.crcSpan = packFields 0 0 (BitVec.ofNat 16 block.length) := by rw [hueq]; rfl
  have hoff : u.spanOff = 0 := by rw [State.spanOff, hspanReg]; exact packFields_low16_zero _
  have hspanLen : u.spanLen.toNat = block.length := by
    rw [State.spanLen, hspanReg, packFields_hi, BitVec.toNat_ofNat]
    omega
  have hspan : u.span = block := by
    rw [State.span, hoff, hspanLen]
    refine List.ext_getElem (State.bufBytes_length ..) fun j hj hj' => ?_
    rw [State.bufBytes_getElem, ← List.getD_eq_getElem block 0 hj', ← htb j hj', hueq]
    rfl
  have hin : u.spanOff.toNat + u.spanLen.toNat ≤ u.cfg.maxPayload := by
    rw [hoff, hspanLen, hu.cfg]
    simpa using hlen
  obtain ⟨x, hux, hx, hcode, hxr⟩ := State.Waits.run_doCmd_crc hu
    (execCrcFeedBuf_inside (s := u.commanded .crcFeedBuf rest) hin)
  refine ⟨x, hst.trans (htu.trans hux), hx, hcode, hxr.trans ?_⟩
  rw [← htr, show t.r = u.r by rw [hueq]; rfl, ← hspan]
  rfl

/-- All the blocks, one after the other. -/
theorem State.Waits.run_feedBlocks {c : Config} {w : Bool} (hmax : c.maxPayload ≤ 65535) {blocks : List (List Byte)}
    {s : State} (h : s.Waits c w (blocks.flatMap (feedBlock c))) (hok : s.code = .ok)
    (hlen : ∀ b ∈ blocks, b.length ≤ c.maxPayload) :
    ∃ t, Reaches s t ∧ t.Waits c w [] ∧ t.code = .ok ∧ t.r = crcFold s.r blocks.flatten := by
  induction blocks generalizing s with
  | nil => exact ⟨s, .refl s, h, hok, rfl⟩
  | cons block blocks ih =>
    obtain ⟨hblock, hblocks⟩ := List.forall_mem_cons.1 hlen
    rw [List.flatMap_cons] at h
    obtain ⟨t, hst, ht, htok, htr⟩ := h.run_feedBlock hmax hblock
    obtain ⟨u, htu, hu, huok, hur⟩ := ih ht htok hblocks
    exact ⟨u, hst.trans htu, hu, huok, by rw [hur, htr, List.flatten_cons, crcFold_append]⟩

/-- The whole sequence: seed 0, the size as pseudo-header, the blocks (40_crc.md R89). -/
theorem State.Waits.run_imageProgram {c : Config} {w : Bool} {p : Word} {blocks : List (List Byte)} {s : State}
    (h : s.Waits c w (imageProgram c p blocks)) (hmax : c.maxPayload ≤ 65535)
    (hlen : ∀ b ∈ blocks, b.length ≤ c.maxPayload) :
    ∃ t, Reaches s t ∧ t.Waits c w [] ∧ t.code = .ok ∧
      t.r = crcFold (0 ^^^ crcInvert) (bytesLE32 p ++ blocks.flatten) := by
  simp only [imageProgram, List.append_assoc, List.singleton_append] at h
  obtain ⟨a, hsa, ha, haeq⟩ := h.run_wr_reg nofun nofun
  obtain ⟨b, hab, hb, -, hbr⟩ := ha.run_doCmd_crc (i := .crcLoad) rfl
  obtain ⟨d, hbd, hd, hdeq⟩ := hb.run_wr_reg nofun nofun
  obtain ⟨e, hde, he, heok, her⟩ := hd.run_doCmd_crc (i := .crcFeedWordLe) rfl
  obtain ⟨t, het, ht, htok, htr⟩ := he.run_feedBlocks hmax heok hlen
  have hloaded : d.r = 0 ^^^ crcInvert :=
    calc d.r = b.r := by rw [hdeq]; rfl
      _ = a.crcSeed ^^^ crcInvert := hbr
      _ = 0 ^^^ crcInvert := by rw [haeq]; rfl
  have hfed : e.r = crcFold d.r (bytesLE32 p) := her.trans (by rw [hdeq]; rfl)
  refine ⟨t, hsa.trans (hab.trans (hbd.trans (hde.trans het))), ht, htok, ?_⟩
  rw [htr, hfed, hloaded, crcFold_append]

/-- Settles O16: line by line, each write accepted and each command polled to its end; R folds the size and the
blocks from the inverted seed 0 (40_crc.md R89). -/
theorem wholeImageProgramComputesTheImageCrc : Obligations.WholeImageProgramComputesTheImageCrc := by
  rintro s p blocks ⟨-, hmax, -⟩ hidle hsched hprog hlen
  have hwaits : s.Waits s.cfg s.werr (imageProgram s.cfg p blocks) := ⟨rfl, rfl, hidle, hsched, hprog⟩
  obtain ⟨t, ⟨k, hrun⟩, ht, hok, htr⟩ := hwaits.run_imageProgram hmax hlen
  have hcrc : t.readReg .crcValue = crc32 0 (bytesLE32 p ++ blocks.flatten) := (t.readReg_crcValue_eq_crc32 _ _).2 htr
  refine ⟨k, t, hrun, ht.prog, ht.idle, hok, ht.werr, hcrc, fun image size _ hp himage => ?_⟩
  rw [hcrc, hp, himage, wholeImageCrc]

end Sys2Proof.Machine
